-- ==== Sys2Proof/Word.lean ====
section
/-! DEFINITION. The word types of CORE: bytes, 16-bit command words and frames, 7-bit bus addresses
(00_scope.md R5, R6). -/

namespace Sys2Proof

/-- A byte: 8 bits, unsigned, bit 0 least significant (R6). -/
abbrev Byte := BitVec 8

/-- A 16-bit value: a command word (R61, `CMD_W` = 16) or a bus frame written as `control ++ payload` (R64). -/
abbrev Word := BitVec 16

/-- A 7-bit bus address (R13, R41). -/
abbrev Addr7 := BitVec 7

end Sys2Proof
end

