-- ==== Sys2Proof/Config.lean ====
section
/-! DEFINITION. What an implementation or the world outside CORE fixes: the opaque types of 00_scope.md R5, the
configuration inputs of 10_state.md R21, and the open parameters, each an opaque constant that no proof can
evaluate. The parameters the spec gives a value (`BL_PROGRAM`, the control bytes) stand in Machine/Rom.lean. -/

namespace Sys2Proof

/-- The token `open` returns (R5 `Handle`, OPEN). DESIGN CHOICE (log entry 1): a number nothing inspects. Safe. -/
structure Handle where
  token : Nat
  deriving DecidableEq, Repr, Inhabited

/-- The error a failing primitive returns (R5 `OsError`, OPEN). DESIGN CHOICE (log entry 1): a number nothing
inspects. Safe. -/
structure OsError where
  code : Int
  deriving DecidableEq, Repr, Inhabited

/-- The device path (R5 `Path`, an opaque string). -/
structure Path where
  name : String
  deriving DecidableEq, Repr, Inhabited

/-- The expander family (R14): "simple-output-latch vs. addressable-register device". -/
inductive Variant where
  | simpleLatch
  | addressableRegister
  deriving DecidableEq, Repr, Inhabited

/-- The configuration inputs `cfg.path`, `cfg.addr`, `cfg.variant` (R21). `cfg.addr` is the raw value of
`CFG_ADDR_W` = 8 bits (decision D8; log entry 2). -/
structure ConfigInputs where
  path : Path
  addr : Byte
  variant : Variant
  deriving DecidableEq, Repr, Inhabited

/-- One (control, payload) entry of a program ROM, or one bus frame (R44, R67). -/
structure RomEntry where
  control : Byte
  payload : Byte
  deriving DecidableEq, Repr, Inhabited

/-- `INIT_PROGRAM` (R104, decision D12): any finite list of byte pairs; its bytes and its length are not in the
source. "A model must not invent the table". -/
opaque Config.initProgram : List RomEntry

/-- `HAS_STOP` (R5, decision D29): whether the platform bus has a session-stop primitive. -/
opaque Config.hasStop : Bool

/-- What stands on the configuration inputs when the instance is constructed (R21: they have no reset value). -/
opaque Config.inputs : ConfigInputs

/-- `S.addr7` after reset: unspecified (R31), "never a zero". DESIGN CHOICE (log entry 6): one value without a
body. Unsafe only for a claim that compares two machines' values. -/
opaque Config.resetAddr7 : Addr7

/-- `S.variant` after reset: unspecified (R31). DESIGN CHOICE (log entry 6). -/
opaque Config.resetVariant : Variant

/-- `S.opnd` after reset: unspecified (R31). DESIGN CHOICE (log entry 6). -/
opaque Config.resetOpnd : Byte

/-- The payload stored in ROM_BL at `BL_VALUE_INDEX`: "never transmitted; its value is immaterial" (R87). A free
value (log entry 19). Safe. -/
opaque Config.blStoredPayload : Byte

end Sys2Proof
end

