-- ==== Sys2Proof/Machine/State.lean ====
section
/-! DEFINITION. The state record `S` of 10_state.md with the inputs, the parameters and the event history a step
reads or writes; the ways a step can stop; the state after reset. -/

namespace Sys2Proof.Machine

/-- The life-cycle states of `S.fsm`, in the source's order (R11). Their 3-bit codes are in Machine/Codes.lean. -/
inductive Fsm where
  /-- No handle was ever requested. -/
  | unopened
  /-- The `open` primitive is in flight. -/
  | opening
  /-- The handle is held and `configureAddress` is in flight. -/
  | addressed
  /-- The address is configured and `INIT_PROGRAM` is being transmitted. -/
  | initializing
  /-- The whole program has been issued; sends are accepted. -/
  | ready
  /-- The handle was released or never obtained. -/
  | closed
  deriving DecidableEq, Repr, Inhabited

/-- `S.src`, the select of MUX (R18). -/
inductive Src where
  /-- NONE: idle, or a command that transmits nothing. -/
  | none
  /-- DIRECT: the pair ENC builds from a SENDI or SENDD operand. -/
  | direct
  /-- ROM_INIT. -/
  | romInit
  /-- ROM_BL. -/
  | romBl
  deriving DecidableEq, Repr, Inhabited

/-- The register-select signal, one of INSTR, DATA (R80). -/
inductive RegSelect where
  | instr
  | data
  deriving DecidableEq, Repr, Inhabited

/-- The bus primitives that PLATFORM answers (R7, R24): what `S.pending` can hold (R20). -/
inductive Request where
  /-- `BusOpen(path)`. -/
  | openBus (path : Path)
  /-- `BusConfigAddr(h, a7)`. -/
  | configAddr (h : Handle) (a7 : Addr7)
  /-- `BusWrite(h, a7, c, p)`: both bytes in one primitive, control first (R45, R46). -/
  | write (h : Handle) (a7 : Addr7) (control payload : Byte)
  deriving DecidableEq, Repr, Inhabited

/-- PLATFORM's answer to `open` (R138): `ok(h)` or `err(e)`. -/
inductive OpenAnswer where
  | ok (h : Handle)
  | err (e : OsError)
  deriving DecidableEq, Repr, Inhabited

/-- PLATFORM's answer to `configureAddress` (R138): `ok` or `err(e)`. -/
inductive ConfigAnswer where
  | ok
  | err (e : OsError)
  deriving DecidableEq, Repr, Inhabited

/-- PLATFORM's answer to `write` (R138): a count of bytes, of any sign (R82), or `err(e)`. -/
inductive WriteAnswer where
  | count (n : Int)
  | err (e : OsError)
  deriving DecidableEq, Repr, Inhabited

/-- The status of a response (R68). Code 7 is never issued, so it is no constructor (93 U16). -/
inductive Status where
  | ok
  | transportError
  | deviceOpenFailed
  | addressingFailed
  | notReady
  | badState
  | illegalCommand
  deriving DecidableEq, Repr, Inhabited

/-- The severity of a report (R69). Code 3 is never produced (93 U16). -/
inductive Severity where
  | debug
  | info
  | error
  deriving DecidableEq, Repr, Inhabited

/-- The kind of a report (R70). -/
inductive ReportKind where
  | txFail
  | variantInfo
  deriving DecidableEq, Repr, Inhabited

/-- A report record without its severity (R70, R30); the text of the message is SINK's (93 U17). -/
structure Report where
  kind : ReportKind
  payload : Byte
  addr : Addr7
  variant : Variant
  deriving DecidableEq, Repr, Inhabited

/-- The events of the history `H` (R30), in the order the pseudocode performs them. -/
inductive Event where
  /-- `Open(path, answer)`. -/
  | opened (path : Path) (answer : OpenAnswer)
  /-- `CfgAddr(h, a7, answer)`. -/
  | cfgAddr (h : Handle) (a7 : Addr7) (answer : ConfigAnswer)
  /-- `Write(h, a7, c, p, answer)`. -/
  | write (h : Handle) (a7 : Addr7) (control payload : Byte) (answer : WriteAnswer)
  /-- `Stop(h)`. -/
  | stop (h : Handle)
  /-- `Close(h)`. -/
  | close (h : Handle)
  /-- `Report(sev, rec)`, handed to SINK. -/
  | report (sev : Severity) (record : Report)
  /-- `Resp(status, info)`, handed to HOST. -/
  | resp (status : Status) (info : Option OsError)
  deriving DecidableEq, Repr, Inhabited

/-- The machine. The first ten fields are the record `S` (R10); then one signal of ENC; then the parameters and
inputs a step reads (R26, R21, R22, R24), which the fixed type of `step` leaves no other place for; then `H` (R30). -/
structure State where
  /-- `S.fsm`, the life-cycle state (R11). -/
  fsm : Fsm
  /-- `S.handle`, the open bus handle (R12). -/
  handle : Option Handle
  /-- `S.addr7`, the masked bus address (R13). -/
  addr7 : Addr7
  /-- `S.variant`, the expander variant flag (R14). -/
  variant : Variant
  /-- `S.suppress`, the error-suppression latch (R15). -/
  suppress : Bool
  /-- `S.agg_fail`, the aggregate failure of the running command (R16). -/
  aggFail : Bool
  /-- `S.seq_pc`, the index of the next entry of the running micro-program (R17). -/
  seqPc : Nat
  /-- `S.src`, the select of MUX (R18). -/
  src : Src
  /-- `S.opnd`, the operand byte of the running command (R19). -/
  opnd : Byte
  /-- `S.pending`, the bus primitive in flight (R20). -/
  pending : Option Request
  /-- ENC's register-select input (R80), latched while a SENDI or SENDD runs: the model's own field (log entry 12). -/
  rs : RegSelect
  /-- The configuration inputs (R21): sampled by INIT, written by nothing in CORE. -/
  cfg : ConfigInputs
  /-- The parameter `HAS_STOP` (R5): never written (log entry 4). -/
  hasStop : Bool
  /-- The contents of ROM_INIT, `INIT_PROGRAM` (R44, R104): never written (log entry 4). -/
  romInit : List RomEntry
  /-- The command words HOST has yet to present at the command port, first one first (R22, log entry 8). -/
  host : List Word
  /-- PLATFORM's answers to `open` not yet taken (R138, log entry 7). -/
  openAnswers : List OpenAnswer
  /-- PLATFORM's answers to `configureAddress` not yet taken (R138). -/
  configAnswers : List ConfigAnswer
  /-- PLATFORM's answers to `write` not yet taken (R138). -/
  writeAnswers : List WriteAnswer
  /-- The event history `H` (R30), oldest first; no rule reads it. -/
  hist : List Event
  deriving DecidableEq, Repr, Inhabited

/-- The faults: both say that the precondition of `Transmit` does not hold (R81: "by construction no rule calls it
otherwise"), so no run from reset meets one. -/
inductive Fault where
  /-- Raised by `transmit` when `S.handle = none`. The spec gives no effect. Safe: the model stops where hardware's
  behaviour is not described. -/
  | transmitWithoutHandle
  /-- Raised by `transmit` when a handle is held but `S.fsm` is neither Initializing nor Ready. The spec gives no
  effect. Safe. -/
  | transmitOutsideReady
  deriving DecidableEq, Repr, Inhabited

/-- The refusals. -/
inductive Refusal where
  /-- Raised by an arm of `exec` for an instruction without a meaning. No arm does. Safe. -/
  | notModelled (mnemonic : String)
  /-- Raised by a command meaning in a state that is not idle: a command forced in while one runs is outside the spec
  ("refuse", R141, 93 U14). `step` never does it: the word waits at the port (R22). Safe. -/
  | commandWhileBusy
  /-- Raised by a frame meaning while a primitive is in flight: CORE issues one request at a time (R24, R51). `step`
  never does it. Safe. -/
  | primitiveInFlight
  deriving DecidableEq, Repr, Inhabited

/-- The machine right after reset (R31, R150). Nothing executes until HOST presents a command; no answer is in flight.
The fields R31 leaves unspecified and the inputs hold opaque constants (log entries 4, 5, 6); `rs` is the model's own
(log entry 12). -/
def State.reset : State where
  fsm := .unopened
  handle := Option.none
  addr7 := Config.resetAddr7
  variant := Config.resetVariant
  suppress := false
  aggFail := false
  seqPc := 0
  src := .none
  opnd := Config.resetOpnd
  pending := Option.none
  rs := .instr
  cfg := Config.inputs
  hasStop := Config.hasStop
  romInit := Config.initProgram
  host := []
  openAnswers := []
  configAnswers := []
  writeAnswers := []
  hist := []

end Sys2Proof.Machine
end

