-- ==== Sys2Proof/Machine/Rom.lean ====
section
/-! DEFINITION. The parameters of CORE that the spec gives a value (00_scope.md R5) and the contents of ROM_BL
(40_encoder.md R87). -/

namespace Sys2Proof.Machine

/-- `WRITE_LEN`: the count a successful write reports (R5, R82). -/
def writeLen : Int := 2

/-- `CTRL_INSTR`: the control byte of an instruction send (R5). -/
def ctrlInstr : Byte := 0x80

/-- `CTRL_DATA`: the control byte of a data send (R5). -/
def ctrlData : Byte := 0x40

/-- `BL_ON_VALUE` (R5). -/
def blOnValue : Byte := 240

/-- `BL_OFF_VALUE` (R5). -/
def blOffValue : Byte := 50

/-- `BL_VALUE_INDEX`: the zero-based step that carries the value (R5, 90 C2, decision D10). -/
def blValueIndex : Nat := 3

/-- `BL_PROGRAM`, the contents of ROM_BL (R87). Payload 0, the position of the value and the control bytes are the
spec's decisions D9, D10, D11 (log entry 20). -/
def blProgram : List RomEntry :=
  [⟨0x80, 0x2A⟩, ⟨0x80, 0x79⟩, ⟨0x80, 0x81⟩, ⟨0x80, Config.blStoredPayload⟩, ⟨0x80, 0x78⟩, ⟨0x80, 0x28⟩]

end Sys2Proof.Machine
end

