-- ==== Sys2Proof/Machine/Flags.lean ====
section
/-! DEFINITION. The two flags of CORE (10_state.md R33): what a failed write is, the severity the latch chooses, the
status the aggregate chooses. -/

namespace Sys2Proof.Machine

/-- A write failed when its answer is `err(e)` or a count other than exactly 2 (R82, R89d, decision D25). -/
def WriteAnswer.failed : WriteAnswer → Bool
  | .count n => n != writeLen
  | .err _ => true

/-- The severity of a transmission failure: ERROR the first time, DEBUG after (R82), from the latch as it stands before
this failure sets it. -/
def failSeverity (suppress : Bool) : Severity := if suppress then .debug else .error

/-- The status of a command whose transmissions are done: OK, or TransportError if any failed (R84, R85, R86). -/
def transportStatus (aggFail : Bool) : Status := if aggFail then .transportError else .ok

end Sys2Proof.Machine
end

