-- ==== Sys2Proof/Machine/Operands.lean ====
section
/-! DEFINITION. Every operand transformation CORE performs (30_encoding.md R66): the address mask, ENC's `Pack`, the
backlight value, and the entry MUX selects for the next transmission. -/

namespace Sys2Proof.Machine

/-- `S.addr7 = cfg.addr & 0x7F` (R13, R66c, R89a). -/
def maskAddr (raw : Byte) : Addr7 := (raw &&& 0x7F#8).setWidth 7

/-- The read/write direction signal (R80). No operation reads, so it is always `write` (R43). -/
inductive Direction where
  | write
  | read
  deriving DecidableEq, Repr, Inhabited

/-- `Pack` (R80): the control byte of the five logical signals. Only the register select has a say (90 C1). -/
def pack (rs : RegSelect) (_rw : Direction) (_en _bl : Bool) (_nib : BitVec 4) : Byte :=
  if rs = .instr then ctrlInstr else ctrlData

/-- The control byte of a send (R84, R85): `Pack(rs, write, -, -, -)`, the three dashes being don't-cares. -/
def sendControl (rs : RegSelect) : Byte := pack rs .write false false 0

/-- The operand byte of BL: the boolean in bit 0 (R19). -/
def blOperand (on : Bool) : Byte := if on then 1 else 0

/-- `on = arg[0]` (R66b). -/
def operandOn (opnd : Byte) : Bool := opnd.getLsbD 0

/-- `on ? 240 : 50` (R66b, R89b). -/
def blValue (on : Bool) : Byte := if on then blOnValue else blOffValue

/-- The entry of BL's program at `pc` as SEQ hands it to MUX: the payload at `BL_VALUE_INDEX` is replaced on the way,
never in the ROM (R86, R55). -/
def blEntry (on : Bool) (pc : Nat) : Option RomEntry :=
  match blProgram[pc]? with
  | Option.none => Option.none
  | some e => some (if pc = blValueIndex then { e with payload := blValue on } else e)

/-- MUX: the (control, payload) pair of the next transmission (R18, R42). `none` where no entry is selected: idle, or
the program has ended (no rule reads at or beyond the length, R44). -/
def selectFrame (s : State) : Option RomEntry :=
  match s.src with
  | .none => Option.none
  | .direct => some ⟨sendControl s.rs, s.opnd⟩
  | .romInit => s.romInit[s.seqPc]?
  | .romBl => blEntry (operandOn s.opnd) s.seqPc

/-- The length of the running micro-program, `INIT_LEN` or `BL_LEN` (R17); a send is one transmission. -/
def programLength (s : State) : Nat :=
  match s.src with
  | .none => 0
  | .direct => 1
  | .romInit => s.romInit.length
  | .romBl => blProgram.length

end Sys2Proof.Machine
end

