-- ==== Sys2Proof/Machine/Ops.lean ====
section
/-! DEFINITION. The named operations over the state: events, acceptance and response, taking an exception
(60_exceptions.md R129) and going on after one (R130), the bus primitives and `Transmit` (40_encoder.md R81, R82), and
the run of an accepted command until it responds or waits for PLATFORM (41_sequencer.md R110, R113). -/

namespace Sys2Proof.Machine

open Host (Outcome)

/-- CORE is idle: no source selected and nothing in flight (R22). -/
abbrev State.Idle (s : State) : Prop := s.src = Src.none ∧ s.pending = Option.none

/-- Append one event to `H` (R7, R30). -/
def State.emit (e : Event) (s : State) : State := { s with hist := s.hist ++ [e] }

/-- Acceptance of a command with operand byte `arg` (R83): `S.opnd <- arg`, `S.agg_fail <- 0`. -/
def State.accept (arg : Byte) (s : State) : State := { s with opnd := arg, aggFail := false }

/-- `Respond(st, info)` (R7): hand the status to HOST and return MUX to NONE (R83). -/
def State.respond (st : Status) (info : Option OsError) (s : State) : State :=
  { s with src := .none, hist := s.hist ++ [.resp st info] }

/-- `Report(sev, rec)` with the address and variant of the instance (R70). -/
def State.report (sev : Severity) (kind : ReportKind) (payload : Byte) (s : State) : State :=
  s.emit (.report sev { kind := kind, payload := payload, addr := s.addr7, variant := s.variant })

/-- `BusClose(h)` and `S.handle <- none` (R12): the handle is released whenever it is closed. -/
def State.busClose (h : Handle) (s : State) : State := { s.emit (.close h) with handle := Option.none }

/-- The exceptions of R121, each with what its entry records. -/
inductive Cause where
  /-- A `write` was answered by an error or a count other than 2; records the attempted payload. -/
  | transportError (payload : Byte)
  /-- `open` answered an error. -/
  | deviceOpenFailed (e : OsError)
  /-- `configureAddress` on handle `h` answered an error. -/
  | addressingFailed (h : Handle) (e : OsError)
  /-- SENDI, SENDD or BL accepted while `S.fsm != Ready`. -/
  | notReady
  /-- INIT accepted while `S.fsm != Unopened`. -/
  | badState
  /-- The accepted word matches no row. -/
  | illegalCommand
  deriving DecidableEq, Repr, Inhabited

/-- `raise X`: the entry of an exception (R129). A TransportError reports, sets both flags and lets the command go on;
the two fatal INIT errors close the instance and respond; a refusal only responds. -/
def State.raise (x : Cause) (s : State) : State :=
  match x with
  | .transportError payload =>
    { s.report (failSeverity s.suppress) .txFail payload with suppress := true, aggFail := true }
  | .deviceOpenFailed e => { s with fsm := .closed }.respond .deviceOpenFailed (some e)
  | .addressingFailed h e => { s.busClose h with fsm := .closed }.respond .addressingFailed (some e)
  | .notReady => s.respond .notReady Option.none
  | .badState => s.respond .badState Option.none
  | .illegalCommand => s.respond .illegalCommand Option.none

/-- The end of the running command's transmissions: INIT reaches Ready and responds OK whatever was lost (R105, R106);
a send or BL responds by the failures it accumulated (R84 to R86, log entry 13). -/
def State.endProgram (s : State) : State :=
  match s.src with
  | .none => s
  | .romInit => { s with fsm := .ready }.respond .ok Option.none
  | .direct => s.respond (transportStatus s.aggFail) Option.none
  | .romBl => s.respond (transportStatus s.aggFail) Option.none

/-- Going on after a transmission (R130, R17, R111): while it waits for its answer nothing; once answered, well or
badly, a micro-program advances by exactly one entry and ends when the index reaches its length; a send ends. -/
def State.continueCommand (s : State) : State :=
  if s.pending.isSome then s
  else
    match s.src with
    | .none => s
    | .direct => s.endProgram
    | .romInit | .romBl =>
      if s.seqPc + 1 < programLength s then { s with seqPc := s.seqPc + 1 }
      else State.endProgram { s with seqPc := s.seqPc + 1 }

/-- A `write` is answered (R81, R82): the event, and the exception entry if it failed. -/
def State.completeWrite (h : Handle) (a7 : Addr7) (c p : Byte) (a : WriteAnswer) (s : State) : State :=
  let t := { s with pending := Option.none }.emit (.write h a7 c p a)
  if a.failed then t.raise (.transportError p) else t

/-- Take PLATFORM's next answer to the write in flight, if there is one. -/
def State.awaitWrite (h : Handle) (a7 : Addr7) (c p : Byte) (s : State) : State :=
  match s.writeAnswers with
  | [] => s
  | a :: rest => { s with writeAnswers := rest }.completeWrite h a7 c p a

/-- `open` is answered (R101, R102): hold the handle and issue `BusConfigAddr`, or close. -/
def State.completeOpen (path : Path) (a : OpenAnswer) (s : State) : State :=
  let t := { s with pending := Option.none }.emit (.opened path a)
  match a with
  | .ok h => { t with handle := some h, fsm := .addressed, pending := some (.configAddr h t.addr7) }
  | .err e => t.raise (.deviceOpenFailed e)

/-- Take PLATFORM's next answer to the `open` in flight, if there is one. -/
def State.awaitOpen (path : Path) (s : State) : State :=
  match s.openAnswers with
  | [] => s
  | a :: rest => { s with openAnswers := rest }.completeOpen path a

/-- `configureAddress` is answered (R101, R103): the variant report and the start of `INIT_PROGRAM` (which is over at
once if it is empty), or close the handle. -/
def State.completeConfig (h : Handle) (a7 : Addr7) (a : ConfigAnswer) (s : State) : State :=
  let t := { s with pending := Option.none }.emit (.cfgAddr h a7 a)
  match a with
  | .ok =>
    let u := { t.report .info .variantInfo 0 with fsm := .initializing, seqPc := 0 }
    if 0 < programLength s then u else u.endProgram
  | .err e => t.raise (.addressingFailed h e)

/-- Take PLATFORM's next answer to the `configureAddress` in flight, if there is one. -/
def State.awaitConfig (h : Handle) (a7 : Addr7) (s : State) : State :=
  match s.configAnswers with
  | [] => s
  | a :: rest => { s with configAnswers := rest }.completeConfig h a7 a

/-- `Transmit(c, p)` (R81): one write of both bytes to `S.addr7`, whatever the variant; if PLATFORM has not answered,
the request stays in flight (R20). Its precondition is R81's; outside it the spec gives no effect (log entry 16). -/
def transmit (c p : Byte) (s : State) : Outcome State Fault Refusal :=
  match s.pending with
  | some _ => .refused .primitiveInFlight
  | Option.none =>
    match s.handle with
    | Option.none => .fault .transmitWithoutHandle
    | some h =>
      if s.fsm = .initializing ∨ s.fsm = .ready then
        .next ({ s with pending := some (.write h s.addr7 c p) }.awaitWrite h s.addr7 c p)
      else .fault .transmitOutsideReady

/-- Apply a function to the next state of an outcome. -/
def mapNext (f : State → State) : Outcome State Fault Refusal → Outcome State Fault Refusal
  | .next s => .next (f s)
  | .fault r => .fault r
  | .refused r => .refused r

/-- The run goes on from the next state of an outcome. -/
def bindNext (f : State → Outcome State Fault Refusal) : Outcome State Fault Refusal → Outcome State Fault Refusal
  | .next s => f s
  | .fault r => .fault r
  | .refused r => .refused r

/-- One micro-step of a running command (R113): take the answer in flight, or transmit the pair MUX selects. -/
def busyStep (s : State) : Outcome State Fault Refusal :=
  match s.pending with
  | some (.openBus path) => .next (s.awaitOpen path)
  | some (.configAddr h a7) => .next (s.awaitConfig h a7)
  | some (.write h a7 c p) => .next (s.awaitWrite h a7 c p).continueCommand
  | Option.none =>
    match selectFrame s with
    | some f => mapNext State.continueCommand (transmit f.control f.payload s)
    | Option.none => .next s.endProgram

/-- CORE waits for PLATFORM: a primitive is in flight and has no answer (R20, R161). -/
def State.blocked (s : State) : Bool :=
  match s.pending with
  | Option.none => false
  | some (.openBus _) => s.openAnswers.isEmpty
  | some (.configAddr _ _) => s.configAnswers.isEmpty
  | some (.write _ _ _ _) => s.writeAnswers.isEmpty

/-- CORE has no enabled step: idle, or waiting for PLATFORM. -/
abbrev State.AtRest (s : State) : Prop := s.Idle ∨ s.blocked = true

/-- Run a command's micro-steps until it is at rest, at most `n` of them. -/
def runToRest : Nat → State → Outcome State Fault Refusal
  | 0, s => .next s
  | n + 1, s => if s.AtRest then .next s else bindNext (runToRest n) (busyStep s)

/-- A command is accepted only when CORE is idle (R22); forced in while one runs it has no meaning (R141). -/
def asCommand (arg : Byte) (body : State → Outcome State Fault Refusal) (s : State) : Outcome State Fault Refusal :=
  if s.Idle then body (s.accept arg) else .refused .commandWhileBusy

end Sys2Proof.Machine
end

