-- ==== Sys2Proof/Machine/Encoder.lean ====
section
/-! DEFINITION. 40_encoder.md: SENDI, SENDD, BL, and the frames MUX transmits. -/

namespace Sys2Proof.Machine

open Host (Outcome)

/-- A send begins (R84, R85): MUX selects DIRECT, the pair ENC builds. -/
def State.beginSend (rs : RegSelect) (s : State) : State := { s with src := .direct, rs := rs }

/-- BL begins (R86): MUX selects ROM_BL and the index is 0. -/
def State.beginBacklight (s : State) : State := { s with src := .romBl, seqPc := 0 }

/-- The common body of SENDI and SENDD (R83 to R85): NotReady outside Ready; else select DIRECT and transmit once. -/
def sendByte (rs : RegSelect) (s : State) : Outcome State Fault Refusal :=
  if s.fsm = .ready then runToRest 1 (s.beginSend rs) else .next (s.raise .notReady)

/-- SENDI b (R84): the frame `(0x80, b)`. -/
def execSendi (b : Byte) (s : State) : Outcome State Fault Refusal := asCommand b (sendByte .instr) s

/-- SENDD b (R85): the frame `(0x40, b)`. -/
def execSendd (b : Byte) (s : State) : Outcome State Fault Refusal := asCommand b (sendByte .data) s

/-- The body of BL (R86): NotReady outside Ready; else walk ROM_BL from its first entry. -/
def setBacklight (s : State) : Outcome State Fault Refusal :=
  if s.fsm = .ready then runToRest blProgram.length s.beginBacklight else .next (s.raise .notReady)

/-- BL on (R86): the six frames of R87, all of them whatever the answers are, and one aggregate response. -/
def execBl (on : Bool) (s : State) : Outcome State Fault Refusal := asCommand (blOperand on) setBacklight s

/-- WR_IR p (R64, R42): `Transmit(0x80, p)`, one write to the target's instruction register. -/
def execWrIr (p : Byte) (s : State) : Outcome State Fault Refusal := transmit ctrlInstr p s

/-- WR_DR p (R64, R42): `Transmit(0x40, p)`, one write to the target's data register. -/
def execWrDr (p : Byte) (s : State) : Outcome State Fault Refusal := transmit ctrlData p s

/-- A WR_RAW frame (R64, R67): a control byte that is neither 0x80 nor 0x40 is transmitted verbatim. Only an entry of
ROM_INIT can be one, and it is no row of the opcode table. -/
def execRaw (f : RomEntry) (s : State) : Outcome State Fault Refusal := transmit f.control f.payload s

end Sys2Proof.Machine
end

