-- ==== Sys2Proof/Syntax.lean ====
section
/-! DEFINITION. The rows of spec/opcode_table.json: the five commands of the command port (R60) and the two
bus frame kinds MUX transmits (R64). Each operand has exactly the width the row leaves free. -/

namespace Sys2Proof

/-- Where a 16-bit value is read from. A command word is read at the command port (R61); a frame is read at
the output of MUX, which HOST cannot reach (R60: `transmit` is not a command). -/
inductive Port where
  /-- HOST's command port (R22). -/
  | command
  /-- The (control, payload) pair MUX has selected for the next transmission (R18, R42). -/
  | frame
  deriving DecidableEq, Repr, Inhabited

/-- The instructions: one constructor per row of the opcode table. -/
inductive Instr where
  /-- `INIT`, the source's `initialize(config)` (R101). -/
  | init
  /-- `SENDI b`, the source's `sendInstruction(byte)` (R84). -/
  | sendi (b : Byte)
  /-- `SENDD b`, the source's `sendData(byte)` (R85). -/
  | sendd (b : Byte)
  /-- `BL on`, the source's `setBacklight(on)` (R86). -/
  | bl (on : Bool)
  /-- `SHUT`, the source's `shutdown(Ready)` (R108). -/
  | shut
  /-- `WR_IR`: the frame with control byte 0x80, one two-byte write to the target's instruction register (R64). -/
  | wrIr (payload : Byte)
  /-- `WR_DR`: the frame with control byte 0x40, one two-byte write to the target's data register (R64). -/
  | wrDr (payload : Byte)
  deriving DecidableEq, Repr, Inhabited

end Sys2Proof
end

