-- ==== Sys2Proof/WellFormed.lean ====
section
/-! DEFINITION. Which instruction may stand where. Operand widths are enforced by the types of `Instr`
(the must-be-zero bits of INIT, BL and SHUT are no operands); what remains to check is the port. -/

namespace Sys2Proof

/-- The port an instruction is read at: commands at the command port (R60, R62), frames at MUX (R64). -/
def Instr.port : Instr → Port
  | .init => .command
  | .sendi _ => .command
  | .sendd _ => .command
  | .bl _ => .command
  | .shut => .command
  | .wrIr _ => .frame
  | .wrDr _ => .frame

/-- An instruction is well formed at a port when it is one that port carries. "`transmit` is not a command: no
HOST can issue it directly" (R60), and no command is a frame. -/
def Instr.wellFormedAt (p : Port) (i : Instr) : Bool := i.port == p

end Sys2Proof
end

