-- ==== Sys2Proof/Decode.lean ====
section
/-! DEFINITION. The decoder of each port and the encoder, from the match and mask columns of 30_encoding.md
R62 and R64. -/

namespace Sys2Proof

/-- Why a word is no instruction of the port it was read at (R71; for a frame, R64's WR_RAW). -/
inductive DecodeError where
  /-- `op` is outside 0x01 to 0x05 (0x00 included: it is not a no-op). -/
  | illegalOpcode (op : Byte)
  /-- INIT with `arg != 0`. -/
  | initArgument (arg : Byte)
  /-- BL with `arg[7:1] != 0`. -/
  | backlightReservedBits (arg : Byte)
  /-- SHUT with `arg != 0`. -/
  | shutArgument (arg : Byte)
  /-- A frame whose control byte is neither 0x80 nor 0x40: the frame kind WR_RAW, sent verbatim (R67). -/
  | rawFrame (control : Byte)
  deriving DecidableEq, Repr, Inhabited

/-- Bits 15:8: `op` of a command word, `control` of a frame (R61, R64). -/
def Word.high (w : Word) : Byte := (w >>> 8).setWidth 8

/-- Bits 7:0: `arg` of a command word, `payload` of a frame (R61, R64). -/
def Word.low (w : Word) : Byte := w.setWidth 8

/-- `high ++ low` (R6: the left operand is the more significant). -/
def Word.ofBytes (high low : Byte) : Word := high ++ low

/-- A word selects a row when `w & mask = match` (R62). -/
def Word.selects (w mask pattern : Word) : Bool := w &&& mask == pattern

/-- The name of the reason a command word that matches no row is illegal (R71). -/
def illegalReason (w : Word) : DecodeError :=
  if Word.high w = 0x01#8 then .initArgument (Word.low w)
  else if Word.high w = 0x04#8 then .backlightReservedBits (Word.low w)
  else if Word.high w = 0x05#8 then .shutArgument (Word.low w)
  else .illegalOpcode (Word.high w)

/-- The decoder of the command port: the five rows of R62, every other word illegal (R71). -/
def decodeCommand (w : Word) : Except DecodeError Instr :=
  if Word.selects w 0xFFFF#16 0x0100#16 then .ok .init
  else if Word.selects w 0xFF00#16 0x0200#16 then .ok (.sendi (Word.low w))
  else if Word.selects w 0xFF00#16 0x0300#16 then .ok (.sendd (Word.low w))
  else if Word.selects w 0xFFFE#16 0x0400#16 then .ok (.bl (w.getLsbD 0))
  else if Word.selects w 0xFFFF#16 0x0500#16 then .ok .shut
  else .error (illegalReason w)

/-- The classification of a frame (R64): WR_IR, WR_DR, and otherwise WR_RAW, which is no row of the table. -/
def decodeFrame (w : Word) : Except DecodeError Instr :=
  if Word.selects w 0xFF00#16 0x8000#16 then .ok (.wrIr (Word.low w))
  else if Word.selects w 0xFF00#16 0x4000#16 then .ok (.wrDr (Word.low w))
  else .error (.rawFrame (Word.high w))

/-- The decoder of a port. -/
def decodeAt : Port → Word → Except DecodeError Instr
  | .command, w => decodeCommand w
  | .frame, w => decodeFrame w

/-- The word of an instruction, field by field from R61, R62 and R64. -/
def encode : Instr → Word
  | .init => Word.ofBytes 0x01#8 0x00#8
  | .sendi b => Word.ofBytes 0x02#8 b
  | .sendd b => Word.ofBytes 0x03#8 b
  | .bl on => Word.ofBytes 0x04#8 (if on then 0x01#8 else 0x00#8)
  | .shut => Word.ofBytes 0x05#8 0x00#8
  | .wrIr p => Word.ofBytes 0x80#8 p
  | .wrDr p => Word.ofBytes 0x40#8 p

/-- The 16 bits of a table word: bits above `nbits` are zero; there is one length, 16 bits (R72). -/
def tableWord (nbits w : Nat) : Word := BitVec.ofNat 16 (w % 2 ^ nbits)

/-- The instruction the decoders read from a word of the opcode table. The command rows and the frame rows are
disjoint, so the order in which the two ports are tried does not matter. A row longer than 16 bits is none (R72). -/
def decodeTableWord (nbits w : Nat) : Option Instr :=
  if nbits ≤ 16 then
    match decodeCommand (tableWord nbits w) with
    | .ok i => some i
    | .error _ => (decodeFrame (tableWord nbits w)).toOption
  else none

end Sys2Proof
end

