-- ==== Sys2Proof/Machine/Sequencer.lean ====
section
/-! DEFINITION. 41_sequencer.md: INIT and SHUT, and the answer to an illegal word (30_encoding.md R71). -/

namespace Sys2Proof.Machine

open Host (Outcome)

/-- INIT begins (R101, R110): sample the configuration inputs, go to Opening and issue `BusOpen`. -/
def State.beginInit (s : State) : State :=
  { s with
    src := .romInit
    addr7 := maskAddr s.cfg.addr
    variant := s.cfg.variant
    fsm := .opening
    pending := some (.openBus s.cfg.path) }

/-- The body of INIT (R101): BadState outside Unopened (R107); else `BusOpen`, `BusConfigAddr` and the whole
`INIT_PROGRAM`, in that order, as far as PLATFORM answers. -/
def bringUp (s : State) : Outcome State Fault Refusal :=
  if s.fsm = .unopened then runToRest (s.romInit.length + 2) s.beginInit else .next (s.raise .badState)

/-- INIT (R101). Its operand byte is 0 (R62). -/
def execInit (s : State) : Outcome State Fault Refusal := asCommand 0 bringUp s

/-- Releasing the handle (R108): `BusStop` where the platform has it, then `BusClose`, and Closed. -/
def State.release (h : Handle) (s : State) : State :=
  { (if s.hasStop then s.emit (.stop h) else s).busClose h with fsm := .closed }

/-- The body of SHUT (R108, R109): without a handle a no-op, not an error; with one, release it. It cannot fail. -/
def shutdown (s : State) : Outcome State Fault Refusal :=
  match s.handle with
  | Option.none => .next (s.respond .ok Option.none)
  | some h => .next ((s.release h).respond .ok Option.none)

/-- SHUT (R108). Its operand byte is 0 (R62). -/
def execShut (s : State) : Outcome State Fault Refusal := asCommand 0 shutdown s

/-- An accepted word that matches no row (R71, R76): IllegalCommand whatever the life-cycle state, and nothing else but
the transient fields of acceptance. -/
def answerIllegal (w : Word) (s : State) : State := (s.accept (Word.low w)).raise .illegalCommand

end Sys2Proof.Machine
end

