-- ==== Sys2Proof/Machine/Dispatch.lean ====
section
/-! DEFINITION. exec: the meaning of every row of the opcode table. -/

namespace Sys2Proof.Machine

def exec (i : Instr) (s : State) : Host.Outcome State Fault Refusal :=
  match i with
  | .init => Sys2Proof.Machine.execInit s
  | .sendi b => Sys2Proof.Machine.execSendi b s
  | .sendd b => Sys2Proof.Machine.execSendd b s
  | .bl on => Sys2Proof.Machine.execBl on s
  | .shut => Sys2Proof.Machine.execShut s
  | .wrIr payload => Sys2Proof.Machine.execWrIr payload s
  | .wrDr payload => Sys2Proof.Machine.execWrDr payload s

end Sys2Proof.Machine
end

