-- ==== Sys2Proof/Machine/Fetch.lean ====
section
/-! DEFINITION. Where a step finds its next instruction: the command port when CORE is idle (10_state.md R22), the
output of MUX while a command runs (R18). -/

namespace Sys2Proof.Machine

/-- The word at the command port and the state once the port has accepted it; `none` while HOST presents none. -/
def fetchCommand (s : State) : Option (Word × State) :=
  match s.host with
  | [] => none
  | w :: rest => some (w, { s with host := rest })

/-- An entry as a frame word, `control ++ payload` (R64, R67). -/
def frameWord (f : RomEntry) : Word := Word.ofBytes f.control f.payload

/-- Make the command port present `w` to an idle CORE. -/
def presentCommand (w : Word) (s : State) : State :=
  { s with src := .none, pending := none, host := w :: s.host }

/-- Make MUX select the frame of a send: a held handle, Ready, and the pair ENC builds from `rs` and `p`. -/
def presentFrame (rs : RegSelect) (p : Byte) (s : State) : State :=
  { s with
    handle := some (s.handle.getD default)
    fsm := .ready
    src := .direct
    pending := none
    rs := rs
    opnd := p }

/-- Place a word where the next step fetches it: a frame row at MUX, every other word at the command port. -/
def placeWord (w : Word) (s : State) : State :=
  match decodeFrame w with
  | .ok (.wrIr p) => presentFrame .instr p s
  | .ok (.wrDr p) => presentFrame .data p s
  | _ => presentCommand w s

end Sys2Proof.Machine
end

