-- ==== Sys2Proof/Machine/Run.lean ====
section
/-! DEFINITION. What a step does in an idle state and while a command runs (41_sequencer.md R113), over the meanings
of exec. -/

namespace Sys2Proof.Machine

open Host (Outcome)

/-- An idle CORE: accept the word at the command port, decode it first and test the state second (R76), and run the
command as far as PLATFORM's answers reach (R113). With no word at the port CORE waits (R31). -/
def commandStep (s : State) : Outcome State Fault Refusal :=
  match fetchCommand s with
  | none => .next s
  | some (w, t) =>
    match decodeCommand w with
    | .ok i => exec i t
    | .error _ => .next (answerIllegal w t)

/-- One frame of the running command, by its meaning where it is a row of the table, else verbatim (R67), and then the
command's continuation. -/
def frameStep (f : RomEntry) (s : State) : Outcome State Fault Refusal :=
  mapNext State.continueCommand
    (match decodeFrame (frameWord f) with
    | .ok i => exec i s
    | .error _ => execRaw f s)

/-- A running command: take the answer of the primitive in flight, or transmit the frame MUX selects. Without an answer
the state stays as it is: nothing gets past an unanswered primitive (R20, R161). -/
def runningStep (s : State) : Outcome State Fault Refusal :=
  if s.pending.isSome then busyStep s
  else
    match selectFrame s with
    | some f => frameStep f s
    | none => .next s.endProgram

end Sys2Proof.Machine
end

