-- ==== Sys2Proof/Machine/Step.lean ====
section
/-! DEFINITION. One step of CORE, and where an instruction is placed for the next step to fetch it. -/

namespace Sys2Proof.Machine

open Host (Outcome)

/-- One step: an idle CORE takes a command, a running one goes on with it (R22, R113). -/
def step (s : State) : Outcome State Fault Refusal := if s.Idle then commandStep s else runningStep s

/-- The state with the instruction of a table row placed where the next step fetches it. A frame needs what its fetch
needs: a command in progress with a handle and MUX on the frame (log entry 18). -/
def State.withFetchWord (s : State) (nbits w : Nat) : State := placeWord (tableWord nbits w) s

end Sys2Proof.Machine
end

