-- ==== Sys2Proof/Machine/Codes.lean ====
section
/-! DEFINITION. The numeric codes of the state, response and report fields (decisions D3, D4, D5, D8, D27 of the
spec) and the order of the severities. -/

namespace Sys2Proof.Machine

/-- The 3-bit code of `S.fsm` (R11); 6 and 7 are never taken. -/
def Fsm.code : Fsm → BitVec 3
  | .unopened => 0
  | .opening => 1
  | .addressed => 2
  | .initializing => 3
  | .ready => 4
  | .closed => 5

/-- The 2-bit code of `S.src` (R18). -/
def Src.code : Src → BitVec 2
  | .none => 0
  | .direct => 1
  | .romInit => 2
  | .romBl => 3

/-- The 1-bit code of the variant flag (R14). -/
def variantBit : Variant → BitVec 1
  | .simpleLatch => 0
  | .addressableRegister => 1

/-- The 3-bit status code of a response (R68); 7 is never issued. -/
def Status.code : Status → BitVec 3
  | .ok => 0
  | .transportError => 1
  | .deviceOpenFailed => 2
  | .addressingFailed => 3
  | .notReady => 4
  | .badState => 5
  | .illegalCommand => 6

/-- The 2-bit severity code (R69); 3 is never produced. -/
def Severity.code : Severity → BitVec 2
  | .debug => 0
  | .info => 1
  | .error => 2

/-- "strictly lower severity": the order DEBUG < INFO < ERROR (R69). -/
def Severity.lower (a b : Severity) : Bool := a.code.ult b.code

/-- The 1-bit code of a report's kind (R70). -/
def ReportKind.code : ReportKind → BitVec 1
  | .txFail => 0
  | .variantInfo => 1

end Sys2Proof.Machine
end

