-- ==== Sys2Proof/Safety.lean ====
section
/-! DEFINITION. The terms the statements use: projections of the event history, the frames and events a command owes,
what the observer of a noninterference statement does not see, and the invariants of 10_state.md R32. -/

namespace Sys2Proof.Machine

open Host (Outcome)

/-! ### Projections of the history -/

/-- The (control, payload) pair of a `Write` event. -/
def Event.frame? : Event → Option RomEntry
  | .write _ _ c p _ => some ⟨c, p⟩
  | _ => none

/-- The pairs written on the bus, in order: the golden sequence of 95 S3. -/
def framesOf (es : List Event) : List RomEntry := es.filterMap Event.frame?

/-- The (control, payload) pair of a write in flight. -/
def Request.frame? : Request → Option RomEntry
  | .write _ _ c p => some ⟨c, p⟩
  | _ => none

/-- The pairs handed to the bus, in order: those written and then the one in flight, if there is one. -/
def framesIssued (s : State) : List RomEntry := framesOf s.hist ++ (s.pending.bind Request.frame?).toList

/-- A write answered by an error or a count other than 2 (R82). -/
def Event.failedWrite : Event → Bool
  | .write _ _ _ _ a => a.failed
  | _ => false

/-- The severity of a TX_FAIL report. -/
def Event.txSeverity? : Event → Option Severity
  | .report sev r => if r.kind = .txFail then some sev else none
  | _ => none

/-- The severities of the TX_FAIL reports, in order. -/
def txSeverities (es : List Event) : List Severity := es.filterMap Event.txSeverity?

/-- The severities `k` failures get from a latch at `suppress`: the first one ERROR if the latch is clear, all others
DEBUG (R82). -/
def latchedSeverities (suppress : Bool) : Nat → List Severity
  | 0 => []
  | k + 1 => (if suppress then .debug else .error) :: List.replicate k .debug

/-- A response. -/
def Event.isResp : Event → Bool
  | .resp _ _ => true
  | _ => false

/-- The handle a `close` releases. -/
def Event.closedHandle? : Event → Option Handle
  | .close h => some h
  | _ => none

/-- The handle an `open` was answered with. -/
def Event.openedHandle? : Event → Option Handle
  | .opened _ (.ok h) => some h
  | _ => none

/-- The handles released, in order. -/
def closedHandles (es : List Event) : List Handle := es.filterMap Event.closedHandle?

/-- The handles obtained, in order. -/
def openedHandles (es : List Event) : List Handle := es.filterMap Event.openedHandle?

/-- The variant a VARIANT_INFO report carries (R70, R103). -/
def Event.variantReport? : Event → Option Variant
  | .report _ r => if r.kind = .variantInfo then some r.variant else none
  | _ => none

/-- The variants of the VARIANT_INFO reports, in order. -/
def variantReports (es : List Event) : List Variant := es.filterMap Event.variantReport?

/-- The bus address of a `Write` event. -/
def Event.writeAddr? : Event → Option Addr7
  | .write _ a7 _ _ _ => some a7
  | _ => none

/-! ### What a command owes -/

/-- The six pairs of BL (R87), written out. -/
def blFrames (on : Bool) : List RomEntry :=
  [⟨0x80, 0x2A⟩, ⟨0x80, 0x79⟩, ⟨0x80, 0x81⟩, ⟨0x80, if on then 240 else 50⟩, ⟨0x80, 0x78⟩, ⟨0x80, 0x28⟩]

/-- The frames a command sends when nothing refuses it (R48): SENDI 1, SENDD 1, BL 6, INIT `INIT_LEN`, SHUT 0. -/
def commandFrames (i : Instr) (s : State) : List RomEntry :=
  match i with
  | .init => if s.fsm = .unopened then s.romInit else []
  | .sendi b => if s.fsm = .ready then [⟨0x80, b⟩] else []
  | .sendd b => if s.fsm = .ready then [⟨0x40, b⟩] else []
  | .bl on => if s.fsm = .ready then blFrames on else []
  | .shut => []
  | .wrIr p => [⟨0x80, p⟩]
  | .wrDr p => [⟨0x40, p⟩]

/-- The events of transmitting the pairs in order against the answers (R81, R82): each write, and after a failed one
its report, ERROR or DEBUG by the latch as it stands then. It ends where the pairs or the answers end. -/
def transcript (h : Handle) (a7 : Addr7) (v : Variant) : Bool → List RomEntry → List WriteAnswer → List Event
  | suppress, f :: fs, a :: as =>
    .write h a7 f.control f.payload a ::
      ((if a.failed then [.report (if suppress then .debug else .error) ⟨.txFail, f.payload, a7, v⟩] else []) ++
        transcript h a7 v (suppress || a.failed) fs as)
  | _, _, _ => []

/-- Some answer is a failure. -/
def anyFailed (as : List WriteAnswer) : Bool := as.any WriteAnswer.failed

/-! ### What an observer does not see -/

/-- Hide what the two flags may choose: the severity of a failure report and OK against TransportError (R33). -/
def Event.eraseFlags : Event → Event
  | .report sev r => .report (if sev = .error then .debug else sev) r
  | .resp st info => .resp (if st = .transportError then .ok else st) info
  | e => e

/-- Hide the two flags and what they choose. -/
def State.eraseFlags (s : State) : State :=
  { s with suppress := false, aggFail := false, hist := s.hist.map Event.eraseFlags }

/-- Hide the variant in a report. -/
def Event.eraseVariant : Event → Event
  | .report sev r => .report sev { r with variant := .simpleLatch }
  | e => e

/-- Hide the variant flag, its input and its place in the reports. -/
def State.eraseVariant (s : State) : State :=
  { s with
    variant := .simpleLatch
    cfg := { s.cfg with variant := .simpleLatch }
    hist := s.hist.map Event.eraseVariant }

/-- Hide the registers that reset leaves unspecified (R31) and the signal of ENC. -/
def State.eraseUnspecified (s : State) : State :=
  { s with addr7 := 0, variant := .simpleLatch, opnd := 0, rs := .instr }

/-! ### Invariants -/

/-- The states of R32 (a) and (b) and what they mean while a command runs: which life-cycle state goes with which
primitive in flight (R11), the arguments of that primitive (R12, R13), the source MUX selects (R18), and the index below
the length (R17). -/
structure LifeCycle (s : State) : Prop where
  idle_rests : s.Idle → s.fsm = .unopened ∨ s.fsm = .ready ∨ s.fsm = .closed
  handle_held : s.handle ≠ none ↔ s.fsm = .addressed ∨ s.fsm = .initializing ∨ s.fsm = .ready
  open_in_flight : s.fsm = .opening ↔ ∃ path, s.pending = some (.openBus path)
  config_in_flight : s.fsm = .addressed ↔ ∃ h a7, s.pending = some (.configAddr h a7)
  config_arguments : ∀ h a7, s.pending = some (.configAddr h a7) → s.handle = some h ∧ a7 = s.addr7
  write_arguments : ∀ h a7 c p, s.pending = some (.write h a7 c p) →
    s.handle = some h ∧ a7 = s.addr7 ∧ selectFrame s = some ⟨c, p⟩
  init_source : s.src = .romInit ↔ s.fsm = .opening ∨ s.fsm = .addressed ∨ s.fsm = .initializing
  send_source : s.src = .direct ∨ s.src = .romBl → s.fsm = .ready
  index_below : s.fsm = .initializing ∨ s.src = .romBl → s.seqPc < programLength s

/-- "released exactly once" (R12, R109): the handles closed, in order, and then the one held are the handles `open`
returned, in order; at most one is ever obtained, and none before INIT has opened it. -/
structure HandleBalance (s : State) : Prop where
  balance : closedHandles s.hist ++ s.handle.toList = openedHandles s.hist
  at_most_one : (openedHandles s.hist).length ≤ 1
  none_before : s.fsm = .unopened ∨ s.fsm = .opening → openedHandles s.hist = []

/-- Every write of the history went to the latched address (R13, R41), and before INIT there was none. -/
structure AddressHeld (s : State) : Prop where
  same : ∀ e ∈ s.hist, ∀ a7, e.writeAddr? = some a7 → a7 = s.addr7
  none_before : s.fsm = .unopened → ∀ e ∈ s.hist, e.writeAddr? = none

/-- The clean end of a run (R162): HOST presents no further command, CORE is idle, and no handle is held. -/
def State.CleanEnd (s : State) : Prop := s.host = [] ∧ s.Idle ∧ s.handle = none

/-- A step that stops with neither a fault nor a refusal. -/
def Completes (o : Outcome State Fault Refusal) : Prop := ∃ t, o = .next t

end Sys2Proof.Machine
end

