-- ==== Sys2Proof/Certificates/Slice0/Obligations.lean ====
section
/-! DEFINITION. The statements for the provers. Where a statement rests on one of the spec's own decisions
(92_eei_decisions.md) or on a choice of the model, its docstring says so. -/

open Sys2Proof Sys2Proof.Machine Host

/-! ### Encodings -/

/-- A few words written out from R62 and R64 (95 V1, V2) decode to what they stand for. -/
def Obligations.SpecWordsDecode : Prop :=
  decodeAt .command 0x0100#16 = .ok .init ∧
  decodeAt .command 0x0280#16 = .ok (.sendi 0x80#8) ∧
  decodeAt .command 0x0340#16 = .ok (.sendd 0x40#8) ∧
  decodeAt .command 0x0401#16 = .ok (.bl true) ∧
  decodeAt .command 0x0500#16 = .ok .shut ∧
  decodeAt .command 0x0402#16 = .error (.backlightReservedBits 0x02#8) ∧
  decodeAt .command 0x8001#16 = .error (.illegalOpcode 0x80#8) ∧
  decodeAt .frame 0x8001#16 = .ok (.wrIr 0x01#8) ∧
  decodeAt .frame 0x4048#16 = .ok (.wrDr 0x48#8) ∧
  decodeAt .frame 0xC055#16 = .error (.rawFrame 0xC0#8)

/-- Decode and encode agree: the word of every instruction, read at the port that carries it, is that instruction, at
every value of its operand. The numbers of the command words are the spec's decision D2. -/
def Obligations.EncodeThenDecodeGivesTheInstruction : Prop :=
  ∀ (p : Port) (i : Instr), i.wellFormedAt p = true → decodeAt p (encode i) = .ok i

/-- Every word has at most one reading: what decodes to an instruction is that instruction's word, and the port carries
it. -/
def Obligations.DecodedWordIsTheEncodedWord : Prop :=
  ∀ (p : Port) (w : Word) (i : Instr), decodeAt p w = .ok i → encode i = w ∧ i.wellFormedAt p = true

/-- The illegal command words are exactly those R71 lists (the numbers are decision D2). -/
def Obligations.IllegalCommandWordsAreThoseListed : Prop :=
  ∀ w : Word, (∃ e, decodeCommand w = .error e) ↔
    (Word.high w).toNat = 0 ∨ 5 < (Word.high w).toNat ∨
    ((Word.high w = 0x01#8 ∨ Word.high w = 0x05#8) ∧ Word.low w ≠ 0) ∨
    (Word.high w = 0x04#8 ∧ 1 < (Word.low w).toNat)

/-- A frame value is not a command word and a command word is no WR_IR or WR_DR frame (95 V1): the rows are disjoint. -/
def Obligations.CommandRowsAndFrameRowsAreDisjoint : Prop :=
  ∀ (w : Word) (i j : Instr), decodeCommand w = .ok i → decodeFrame w ≠ .ok j

/-- Every word whose control byte is 0x80 or 0x40 is that frame; every other frame is WR_RAW (R64). -/
def Obligations.FrameKindIsTheControlByte : Prop :=
  ∀ c p : Byte,
    decodeFrame (Word.ofBytes c p) =
      if c = 0x80#8 then .ok (.wrIr p) else if c = 0x40#8 then .ok (.wrDr p) else .error (.rawFrame c)

/-! ### Operands and codes -/

/-- The operand transformations of R66, command by command: (a) SENDI b and SENDD b hand MUX one pair, its payload b; (b) BL's
boolean is bit 0 of its word, and the pair BL hands MUX at `BL_VALUE_INDEX` carries 240 or 50; (c) the address INIT latches
is the raw one without the bits from 7 up; (d) INIT latches the variant unchanged, its VARIANT_INFO reports carry it
unchanged, and there is one once `open` and `configureAddress` are answered well. That INIT reports it once and when is
decision D17; the position of BL's value is decision D10. -/
def Obligations.OperandTransformationsAreTheFourOfTheSpec : Prop :=
  (∀ (s : State) (h : Handle) (b : Byte), s.Idle → s.fsm = .ready → s.handle = some h →
    (∃ t c, exec (.sendi b) s = .next t ∧ framesIssued t = framesOf s.hist ++ [⟨c, b⟩]) ∧
    (∃ t c, exec (.sendd b) s = .next t ∧ framesIssued t = framesOf s.hist ++ [⟨c, b⟩])) ∧
  (∀ (w : Word) (on : Bool), decodeCommand w = .ok (.bl on) → on = (Word.low w).getLsbD 0) ∧
  (∀ (s : State) (h : Handle) (on : Bool), s.Idle → s.fsm = .ready → s.handle = some h →
    blValueIndex ≤ s.writeAnswers.length →
    ∃ t c, exec (.bl on) s = .next t ∧
      (framesIssued t)[(framesOf s.hist).length + blValueIndex]? = some ⟨c, if on then 0xF0#8 else 0x32#8⟩) ∧
  (∀ s : State, s.Idle → s.fsm = .unopened →
    ∃ t n, exec .init s = .next t ∧
      (∀ i, t.addr7.getLsbD i = (decide (i < 7) && s.cfg.addr.getLsbD i)) ∧
      t.variant = s.cfg.variant ∧
      variantReports t.hist = variantReports s.hist ++ List.replicate n s.cfg.variant ∧
      (∀ h os cs, s.openAnswers = .ok h :: os → s.configAnswers = .ok :: cs → n = 1))

/-- `Pack` is 0x80 for INSTR and 0x40 for DATA, whatever the other four signals are (R80, 90 C1). -/
def Obligations.PackDependsOnRegisterSelectOnly : Prop :=
  ∀ (rw : Direction) (en bl : Bool) (nib : BitVec 4),
    pack .instr rw en bl nib = 0x80#8 ∧ pack .data rw en bl nib = 0x40#8

/-- The codes of the spec's tables (decisions D3, D4, D5, D8, D27), with the values that are left over never used, and
"strictly lower severity": DEBUG below INFO below ERROR. -/
def Obligations.CodesAreThoseOfTheTables : Prop :=
  [Fsm.unopened.code, Fsm.opening.code, Fsm.addressed.code, Fsm.initializing.code, Fsm.ready.code, Fsm.closed.code] =
    [0, 1, 2, 3, 4, 5] ∧
  (∀ f : Fsm, f.code ≠ 6 ∧ f.code ≠ 7) ∧
  [Src.none.code, Src.direct.code, Src.romInit.code, Src.romBl.code] = [0, 1, 2, 3] ∧
  [Status.ok.code, Status.transportError.code, Status.deviceOpenFailed.code, Status.addressingFailed.code,
    Status.notReady.code, Status.badState.code, Status.illegalCommand.code] = [0, 1, 2, 3, 4, 5, 6] ∧
  (∀ st : Status, st.code ≠ 7) ∧
  [Severity.code .debug, Severity.code .info, Severity.code .error] = [0, 1, 2] ∧
  Severity.lower .debug .info = true ∧ Severity.lower .info .error = true ∧
  [ReportKind.txFail.code, ReportKind.variantInfo.code] = [0, 1] ∧
  [variantBit .simpleLatch, variantBit .addressableRegister] = [0, 1]

/-! ### Reset and the step -/

/-- What reset leaves: the three values the source gives (Unopened, no handle, unsuppressed) and the idle values of
decision D24. -/
def Obligations.ResetIsIdleUnopenedUnsuppressed : Prop :=
  State.reset.fsm = .unopened ∧ State.reset.handle = none ∧ State.reset.suppress = false ∧
  State.reset.aggFail = false ∧ State.reset.seqPc = 0 ∧ State.reset.src = .none ∧ State.reset.pending = none ∧
  State.reset.hist = []

/-- After reset, and whenever CORE is idle and HOST presents no word, CORE waits: the state stays as it is. (That waiting
is a step to the same state is the model's choice, log entry 10.) -/
def Obligations.IdleCoreWaitsForACommand : Prop :=
  (∀ s : State, s.Idle → s.host = [] → step s = .next s) ∧ step State.reset = .next State.reset

/-- A step of an idle CORE takes the word at the command port and runs the instruction it decodes to. -/
def Obligations.StepRunsThePresentedCommand : Prop :=
  ∀ (s : State) (w : Word) (rest : List Word) (i : Instr),
    s.Idle → s.host = w :: rest → decodeCommand w = .ok i → step s = exec i { s with host := rest }

/-- A step of a running command with nothing in flight runs the frame MUX selects, where it is a row of the table, and
then goes on with the command. -/
def Obligations.StepRunsTheSelectedFrame : Prop :=
  ∀ (s : State) (f : RomEntry) (i : Instr),
    s.pending = none → selectFrame s = some f → decodeFrame (frameWord f) = .ok i →
    step s = mapNext State.continueCommand (exec i s)

/-- A WR_RAW entry of ROM_INIT is transmitted verbatim (R67): its own control byte and payload in one write. (That a step
of a running command is one entry is log entry 9.) -/
def Obligations.RawEntryIsTransmittedVerbatim : Prop :=
  ∀ (s : State) (h : Handle) (f : RomEntry) (a : WriteAnswer) (as : List WriteAnswer),
    s.pending = none → s.src = .romInit → s.fsm = .initializing → s.handle = some h →
    s.romInit[s.seqPc]? = some f → f.control ≠ 0x80#8 → f.control ≠ 0x40#8 →
    s.writeAnswers = a :: as → a.failed = false → s.seqPc + 1 < s.romInit.length →
    step s = .next { s with
      seqPc := s.seqPc + 1
      writeAnswers := as
      hist := s.hist ++ [.write h s.addr7 f.control f.payload a] }

/-- An illegal word is answered IllegalCommand in every idle state, Closed and Unopened included, and nothing changes but
the transient fields of acceptance (R71, R76, decision D21; that they are latched for an illegal word too is log entry
14). -/
def Obligations.IllegalWordIsOnlyAnswered : Prop :=
  ∀ (s : State) (w : Word) (rest : List Word) (e : DecodeError),
    s.Idle → s.host = w :: rest → decodeCommand w = .error e →
    step s = .next { s with
      host := rest
      opnd := Word.low w
      aggFail := false
      hist := s.hist ++ [.resp .illegalCommand none] }

/-- A primitive PLATFORM never answers hangs CORE: after any number of steps the state is the same, with the primitive in
flight, no response, and no later command accepted (R20, R161). (A hang is a step to the same state, log entry 10.) -/
def Obligations.UnansweredPrimitiveHangs : Prop :=
  ∀ (s : State) (n : Nat), s.blocked = true → Host.Core.run Sys2Proof.core n s = .next s

/-- No command word and no state makes a step refuse: every refusal of the spec is a response. -/
def Obligations.StepNeverRefuses : Prop := ∀ (s : State) (r : Refusal), step s ≠ .refused r

/-! ### SENDI and SENDD -/

/-- SENDI b in Ready: one write of (0x80, b) to the latched address; OK if PLATFORM transferred exactly 2 bytes, else one
report and TransportError; everything else unchanged. -/
def Obligations.SendInstructionWritesOneFrame : Prop :=
  ∀ (b : Byte) (s : State) (h : Handle) (a : WriteAnswer) (as : List WriteAnswer),
    s.Idle → s.fsm = .ready → s.handle = some h → s.writeAnswers = a :: as →
    exec (.sendi b) s = .next { s with
      opnd := b
      rs := .instr
      suppress := s.suppress || a.failed
      aggFail := a.failed
      writeAnswers := as
      hist := s.hist ++ transcript h s.addr7 s.variant s.suppress [⟨0x80, b⟩] [a] ++
        [.resp (if a = .count 2 then .ok else .transportError) none] }

/-- SENDD b in Ready: as SENDI with 0x40. -/
def Obligations.SendDataWritesOneFrame : Prop :=
  ∀ (b : Byte) (s : State) (h : Handle) (a : WriteAnswer) (as : List WriteAnswer),
    s.Idle → s.fsm = .ready → s.handle = some h → s.writeAnswers = a :: as →
    exec (.sendd b) s = .next { s with
      opnd := b
      rs := .data
      suppress := s.suppress || a.failed
      aggFail := a.failed
      writeAnswers := as
      hist := s.hist ++ transcript h s.addr7 s.variant s.suppress [⟨0x40, b⟩] [a] ++
        [.resp (if a = .count 2 then .ok else .transportError) none] }

/-- SENDI, SENDD and BL outside Ready: NotReady, no bus primitive, no report, the latch untouched (R83, decision D13;
that the refused command still latches its operand and clears the aggregate is log entry 14). -/
def Obligations.SendsOutsideReadyAreRefused : Prop :=
  ∀ s : State, s.Idle → s.fsm ≠ .ready →
    (∀ b, exec (.sendi b) s =
      .next { s with opnd := b, aggFail := false, hist := s.hist ++ [.resp .notReady none] }) ∧
    (∀ b, exec (.sendd b) s =
      .next { s with opnd := b, aggFail := false, hist := s.hist ++ [.resp .notReady none] }) ∧
    (∀ on, exec (.bl on) s =
      .next { s with opnd := if on then 1 else 0, aggFail := false, hist := s.hist ++ [.resp .notReady none] })

/-- SENDI and SENDD whose write is not answered wait with it in flight: no event, no response (R20). -/
def Obligations.UnansweredSendWaits : Prop :=
  ∀ (b : Byte) (s : State) (h : Handle),
    s.Idle → s.fsm = .ready → s.handle = some h → s.writeAnswers = [] →
    exec (.sendi b) s = .next { s with
      opnd := b, aggFail := false, src := .direct, rs := .instr, pending := some (.write h s.addr7 0x80 b) } ∧
    exec (.sendd b) s = .next { s with
      opnd := b, aggFail := false, src := .direct, rs := .data, pending := some (.write h s.addr7 0x40 b) }

/-- The answer to a send that waited ends it: the same events and the same response as if it had come at once. -/
def Obligations.LateAnswerEndsTheSend : Prop :=
  ∀ (s : State) (h : Handle) (a7 : Addr7) (c p : Byte) (a : WriteAnswer) (as : List WriteAnswer),
    s.src = .direct → s.aggFail = false → s.pending = some (.write h a7 c p) → s.writeAnswers = a :: as →
    step s = .next { s with
      src := .none
      pending := none
      suppress := s.suppress || a.failed
      aggFail := a.failed
      writeAnswers := as
      hist := s.hist ++ [.write h a7 c p a] ++
        (if a.failed then [.report (failSeverity s.suppress) ⟨.txFail, p, s.addr7, s.variant⟩] else []) ++
        [.resp (if a.failed then .transportError else .ok) none] }

/-! ### BL -/

/-- BL on in Ready, every write answered: the six frames of R87 in order whatever the answers are, each failure reported,
one response, TransportError if one or more of the six failed (decision D20; the first payload, the position of the value
and the control bytes are decisions D9, D10, D11). -/
def Obligations.BacklightWritesSixFrames : Prop :=
  ∀ (on : Bool) (s : State) (h : Handle) (as rest : List WriteAnswer),
    s.Idle → s.fsm = .ready → s.handle = some h → s.writeAnswers = as ++ rest → as.length = 6 →
    exec (.bl on) s = .next { s with
      opnd := if on then 1 else 0
      suppress := s.suppress || anyFailed as
      aggFail := anyFailed as
      seqPc := 6
      writeAnswers := rest
      hist := s.hist ++ transcript h s.addr7 s.variant s.suppress (blFrames on) as ++
        [.resp (if anyFailed as then .transportError else .ok) none] }

/-- BL with fewer than six answers: it waits with the next frame in flight, the earlier ones written, no response. -/
def Obligations.UnansweredBacklightWaits : Prop :=
  ∀ (on : Bool) (s : State) (h : Handle) (f : RomEntry),
    s.Idle → s.fsm = .ready → s.handle = some h → (blFrames on)[s.writeAnswers.length]? = some f →
    exec (.bl on) s = .next { s with
      opnd := if on then 1 else 0
      suppress := s.suppress || anyFailed s.writeAnswers
      aggFail := anyFailed s.writeAnswers
      src := .romBl
      seqPc := s.writeAnswers.length
      pending := some (.write h s.addr7 f.control f.payload)
      writeAnswers := []
      hist := s.hist ++ transcript h s.addr7 s.variant s.suppress (blFrames on) s.writeAnswers }

/-- One entry of ROM_BL as a micro-step, whether its write was in flight or is issued now: the write is answered, the index
advances by exactly one whatever the answer is, and after the sixth the aggregate is the response (R17, R20, R86; the
entries are decisions D9, D10, D11; the micro-step is log entry 9). -/
def Obligations.BacklightStepAdvancesByOneEntry : Prop :=
  ∀ (s : State) (h : Handle) (f : RomEntry) (a : WriteAnswer) (as : List WriteAnswer),
    s.pending = none ∨ s.pending = some (.write h s.addr7 f.control f.payload) →
    s.src = .romBl → s.fsm = .ready → s.handle = some h →
    (blFrames (s.opnd.getLsbD 0))[s.seqPc]? = some f → s.writeAnswers = a :: as →
    step s = .next { s with
      src := if s.seqPc = 5 then .none else .romBl
      pending := none
      suppress := s.suppress || a.failed
      aggFail := s.aggFail || a.failed
      seqPc := s.seqPc + 1
      writeAnswers := as
      hist := s.hist ++ transcript h s.addr7 s.variant s.suppress [f] [a] ++
        (if s.seqPc = 5 then [.resp (if s.aggFail || a.failed then .transportError else .ok) none] else []) }

/-- Backlight on and off differ in the fourth payload only, 240 against 50 (95 S4 with the position of decision D10): the
six frames each writes are the same elsewhere, whatever PLATFORM answers in either case. -/
def Obligations.BacklightOnAndOffDifferInOnePayload : Prop :=
  ∀ (s t u : State), s.fsm = .ready → exec (.bl true) s = .next t → exec (.bl false) s = .next u →
    t.Idle → u.Idle →
    ∃ fs gs : List RomEntry, framesOf t.hist = framesOf s.hist ++ fs ∧ framesOf u.hist = framesOf s.hist ++ gs ∧
      fs.length = 6 ∧ gs.length = 6 ∧ (∀ i, i ≠ 3 → fs[i]? = gs[i]?) ∧
      fs[3]? = some ⟨0x80, 240⟩ ∧ gs[3]? = some ⟨0x80, 50⟩

/-! ### INIT -/

/-- INIT in Unopened, `open` and `configureAddress` answered well and every write answered, well or badly: the address is
the masked raw address, the variant is reported once, the whole program is written in order with one report per failure,
and the response is OK in Ready (R101 to R106; the report is decision D17). -/
def Obligations.InitWritesTheWholeProgram : Prop :=
  ∀ (s : State) (h : Handle) (os : List OpenAnswer) (cs : List ConfigAnswer) (as rest : List WriteAnswer),
    s.Idle → s.fsm = .unopened → s.openAnswers = .ok h :: os → s.configAnswers = .ok :: cs →
    s.writeAnswers = as ++ rest → as.length = s.romInit.length →
    exec .init s = .next { s with
      fsm := .ready
      handle := some h
      addr7 := maskAddr s.cfg.addr
      variant := s.cfg.variant
      suppress := s.suppress || anyFailed as
      aggFail := anyFailed as
      seqPc := s.romInit.length
      opnd := 0
      openAnswers := os
      configAnswers := cs
      writeAnswers := rest
      hist := s.hist ++
        [.opened s.cfg.path (.ok h), .cfgAddr h (maskAddr s.cfg.addr) .ok,
          .report .info ⟨.variantInfo, 0, maskAddr s.cfg.addr, s.cfg.variant⟩] ++
        transcript h (maskAddr s.cfg.addr) s.cfg.variant s.suppress s.romInit as ++ [.resp .ok none] }

/-- `open` fails: Closed, DeviceOpenFailed with the error, no `configureAddress`, no write, no report, the latch untouched
(R102, decision D18). -/
def Obligations.InitStopsWhenOpenFails : Prop :=
  ∀ (s : State) (e : OsError) (os : List OpenAnswer),
    s.Idle → s.fsm = .unopened → s.openAnswers = .err e :: os →
    exec .init s = .next { s with
      fsm := .closed
      addr7 := maskAddr s.cfg.addr
      variant := s.cfg.variant
      aggFail := false
      opnd := 0
      openAnswers := os
      hist := s.hist ++ [.opened s.cfg.path (.err e), .resp .deviceOpenFailed (some e)] }

/-- `configureAddress` fails: the handle is closed and dropped, Closed, AddressingFailed with the error, no write, no stop,
no report (R103, decision D15). -/
def Obligations.InitStopsWhenAddressingFails : Prop :=
  ∀ (s : State) (h : Handle) (e : OsError) (os : List OpenAnswer) (cs : List ConfigAnswer),
    s.Idle → s.fsm = .unopened → s.openAnswers = .ok h :: os → s.configAnswers = .err e :: cs →
    exec .init s = .next { s with
      fsm := .closed
      handle := none
      addr7 := maskAddr s.cfg.addr
      variant := s.cfg.variant
      aggFail := false
      opnd := 0
      openAnswers := os
      configAnswers := cs
      hist := s.hist ++ [.opened s.cfg.path (.ok h), .cfgAddr h (maskAddr s.cfg.addr) (.err e), .close h,
        .resp .addressingFailed (some e)] }

/-- INIT in any other state than Unopened: BadState and no other effect (R107, decision D14; log entry 14). -/
def Obligations.InitOutsideUnopenedIsRefused : Prop :=
  ∀ s : State, s.Idle → s.fsm ≠ .unopened →
    exec .init s = .next { s with opnd := 0, aggFail := false, hist := s.hist ++ [.resp .badState none] }

/-- INIT whose `open` is not answered waits in Opening; one whose `configureAddress` is not answered waits in Addressed
with the handle held; one with n answers to its writes, fewer than `INIT_LEN`, waits in Initializing with entry n in
flight, the first n entries written, and no response (R11, R17, R20; the variant report is decision D17). -/
def Obligations.UnansweredInitWaits : Prop :=
  (∀ s : State, s.Idle → s.fsm = .unopened → s.openAnswers = [] →
    exec .init s = .next { s with
      fsm := .opening
      addr7 := maskAddr s.cfg.addr
      variant := s.cfg.variant
      aggFail := false
      opnd := 0
      src := .romInit
      pending := some (.openBus s.cfg.path) }) ∧
  (∀ (s : State) (h : Handle) (os : List OpenAnswer),
    s.Idle → s.fsm = .unopened → s.openAnswers = .ok h :: os → s.configAnswers = [] →
    exec .init s = .next { s with
      fsm := .addressed
      handle := some h
      addr7 := maskAddr s.cfg.addr
      variant := s.cfg.variant
      aggFail := false
      opnd := 0
      src := .romInit
      pending := some (.configAddr h (maskAddr s.cfg.addr))
      openAnswers := os
      hist := s.hist ++ [.opened s.cfg.path (.ok h)] }) ∧
  (∀ (s : State) (h : Handle) (f : RomEntry) (os : List OpenAnswer) (cs : List ConfigAnswer),
    s.Idle → s.fsm = .unopened → s.openAnswers = .ok h :: os → s.configAnswers = .ok :: cs →
    s.romInit[s.writeAnswers.length]? = some f →
    exec .init s = .next { s with
      fsm := .initializing
      handle := some h
      addr7 := maskAddr s.cfg.addr
      variant := s.cfg.variant
      suppress := s.suppress || anyFailed s.writeAnswers
      aggFail := anyFailed s.writeAnswers
      seqPc := s.writeAnswers.length
      src := .romInit
      opnd := 0
      pending := some (.write h (maskAddr s.cfg.addr) f.control f.payload)
      openAnswers := os
      configAnswers := cs
      writeAnswers := []
      hist := s.hist ++
        [.opened s.cfg.path (.ok h), .cfgAddr h (maskAddr s.cfg.addr) .ok,
          .report .info ⟨.variantInfo, 0, maskAddr s.cfg.addr, s.cfg.variant⟩] ++
        transcript h (maskAddr s.cfg.addr) s.cfg.variant s.suppress s.romInit s.writeAnswers })

/-- One entry of `INIT_PROGRAM` as a micro-step, whether its write was in flight or is issued now: the write is answered, the
index advances by exactly one whatever the answer is, and after the last entry INIT reaches Ready and responds OK even if
that write failed (R17, R20, R105, R110; the micro-step is log entry 9). -/
def Obligations.InitStepAdvancesByOneEntry : Prop :=
  ∀ (s : State) (h : Handle) (f : RomEntry) (a : WriteAnswer) (as : List WriteAnswer),
    s.pending = none ∨ s.pending = some (.write h s.addr7 f.control f.payload) →
    s.src = .romInit → s.fsm = .initializing → s.handle = some h →
    s.romInit[s.seqPc]? = some f → s.writeAnswers = a :: as →
    step s = .next { s with
      fsm := if s.seqPc + 1 = s.romInit.length then .ready else .initializing
      src := if s.seqPc + 1 = s.romInit.length then .none else .romInit
      pending := none
      suppress := s.suppress || a.failed
      aggFail := s.aggFail || a.failed
      seqPc := s.seqPc + 1
      writeAnswers := as
      hist := s.hist ++ transcript h s.addr7 s.variant s.suppress [f] [a] ++
        (if s.seqPc + 1 = s.romInit.length then [.resp .ok none] else []) }

/-- The micro-steps of Opening and Addressed (R102, R103, R110): the answer to `open` moves to Addressed and issues
`configureAddress`, or closes; the answer to that reports the variant and starts the program at its first entry, is Ready
at once if the program is empty, or closes the handle and Closed. -/
def Obligations.OpeningAndAddressedTakeTheirAnswers : Prop :=
  (∀ (s : State) (path : Path) (h : Handle) (os : List OpenAnswer),
    s.pending = some (.openBus path) → s.openAnswers = .ok h :: os →
    step s = .next { s with
      fsm := .addressed, handle := some h, pending := some (.configAddr h s.addr7), openAnswers := os
      hist := s.hist ++ [.opened path (.ok h)] }) ∧
  (∀ (s : State) (path : Path) (e : OsError) (os : List OpenAnswer),
    s.pending = some (.openBus path) → s.openAnswers = .err e :: os →
    step s = .next { s with
      fsm := .closed, src := .none, pending := none, openAnswers := os
      hist := s.hist ++ [.opened path (.err e), .resp .deviceOpenFailed (some e)] }) ∧
  (∀ (s : State) (h : Handle) (a7 : Addr7) (cs : List ConfigAnswer),
    s.pending = some (.configAddr h a7) → s.src = .romInit → s.configAnswers = .ok :: cs → s.romInit ≠ [] →
    step s = .next { s with
      fsm := .initializing, seqPc := 0, pending := none, configAnswers := cs
      hist := s.hist ++ [.cfgAddr h a7 .ok, .report .info ⟨.variantInfo, 0, s.addr7, s.variant⟩] }) ∧
  (∀ (s : State) (h : Handle) (a7 : Addr7) (cs : List ConfigAnswer),
    s.pending = some (.configAddr h a7) → s.src = .romInit → s.configAnswers = .ok :: cs → s.romInit = [] →
    step s = .next { s with
      fsm := .ready, seqPc := 0, src := .none, pending := none, configAnswers := cs
      hist := s.hist ++ [.cfgAddr h a7 .ok, .report .info ⟨.variantInfo, 0, s.addr7, s.variant⟩, .resp .ok none] }) ∧
  (∀ (s : State) (h : Handle) (a7 : Addr7) (e : OsError) (cs : List ConfigAnswer),
    s.pending = some (.configAddr h a7) → s.configAnswers = .err e :: cs →
    step s = .next { s with
      fsm := .closed, handle := none, src := .none, pending := none, configAnswers := cs
      hist := s.hist ++ [.cfgAddr h a7 (.err e), .close h, .resp .addressingFailed (some e)] })

/-- INIT writes nothing but `INIT_PROGRAM`, in its order, from its start: whatever PLATFORM answers, and however early INIT
ends or waits, the frames it has written are the first entries of the ROM, and all of them once it is Ready (R104, R105). -/
def Obligations.InitFramesAreAPrefixOfTheProgram : Prop :=
  ∀ s t : State, exec .init s = .next t →
    ∃ n, framesOf t.hist = framesOf s.hist ++ s.romInit.take n ∧
      (s.fsm = .unopened → t.fsm = .ready → s.romInit.length ≤ n)

/-! ### SHUT -/

/-- SHUT with a handle: `BusStop` where the platform has it, then `BusClose`, Closed, OK; no frame (R108). -/
def Obligations.ShutReleasesTheHandle : Prop :=
  ∀ (s : State) (h : Handle), s.Idle → s.handle = some h →
    exec .shut s = .next { s with
      fsm := .closed
      handle := none
      aggFail := false
      opnd := 0
      hist := s.hist ++ (if s.hasStop then [.stop h] else []) ++ [.close h, .resp .ok none] }

/-- SHUT without a handle is a no-op that responds OK: Unopened stays Unopened and Closed stays Closed (R108, R109). -/
def Obligations.ShutWithoutHandleDoesNothing : Prop :=
  ∀ s : State, s.Idle → s.handle = none →
    exec .shut s = .next { s with aggFail := false, opnd := 0, hist := s.hist ++ [.resp .ok none] }

/-- "called twice in a row does not error and does not issue a second `close`" (R109, 95 S9). -/
def Obligations.SecondShutIssuesNothing : Prop :=
  ∀ s : State, s.Idle → ∃ t u, exec .shut s = .next t ∧ exec .shut t = .next u ∧
    u.hist = t.hist ++ [.resp .ok none] ∧ u.fsm = t.fsm ∧ u.handle = none ∧ t.handle = none

/-! ### The frames -/

/-- WR_IR p and WR_DR p: one atomic write of (0x80, p), (0x40, p) to the latched address; a failed one is reported and sets
both flags; nothing else changes (R64, R81, R82). -/
def Obligations.FrameIsOneAtomicWrite : Prop :=
  ∀ (p : Byte) (s : State) (h : Handle) (a : WriteAnswer) (as : List WriteAnswer),
    s.pending = none → s.handle = some h → s.fsm = .initializing ∨ s.fsm = .ready → s.writeAnswers = a :: as →
    exec (.wrIr p) s = .next { s with
      suppress := s.suppress || a.failed
      aggFail := s.aggFail || a.failed
      writeAnswers := as
      hist := s.hist ++ transcript h s.addr7 s.variant s.suppress [⟨0x80, p⟩] [a] } ∧
    exec (.wrDr p) s = .next { s with
      suppress := s.suppress || a.failed
      aggFail := s.aggFail || a.failed
      writeAnswers := as
      hist := s.hist ++ transcript h s.addr7 s.variant s.suppress [⟨0x40, p⟩] [a] }

/-- A frame whose write is not answered stays in flight, and nothing else changes (R20). -/
def Obligations.UnansweredFrameWaits : Prop :=
  ∀ (p : Byte) (s : State) (h : Handle),
    s.pending = none → s.handle = some h → s.fsm = .initializing ∨ s.fsm = .ready → s.writeAnswers = [] →
    exec (.wrIr p) s = .next { s with pending := some (.write h s.addr7 0x80 p) } ∧
    exec (.wrDr p) s = .next { s with pending := some (.write h s.addr7 0x40 p) }

/-- Outside the precondition of `Transmit` (R81) a frame stops by name: no handle, or a handle but neither Initializing nor
Ready, or a primitive in flight. The stops are the model's choice (log entries 16, 17). -/
def Obligations.FrameOutsideItsPreconditionStops : Prop :=
  ∀ (p : Byte) (s : State), ∀ i ∈ [Instr.wrIr p, Instr.wrDr p],
    (s.pending ≠ none → exec i s = .refused .primitiveInFlight) ∧
    (s.pending = none → s.handle = none → exec i s = .fault .transmitWithoutHandle) ∧
    (s.pending = none → s.handle ≠ none → s.fsm ≠ .initializing → s.fsm ≠ .ready →
      exec i s = .fault .transmitOutsideReady)

/-- A command forced in while one runs is refused, whatever it is (R22, R141; that it is a refusal of the model is log
entry 17). -/
def Obligations.CommandWhileBusyIsRefused : Prop :=
  ∀ (i : Instr) (s : State), i.wellFormedAt .command = true → ¬ s.Idle → exec i s = .refused .commandWhileBusy

/-- A failed write is one answered by an error or by any count but 2: 0, 1, 3 and more, and below 0 (R82, decision D25). -/
def Obligations.WriteFailsUnlessExactlyTwoBytes : Prop :=
  (∀ a : WriteAnswer, a.failed = false ↔ a = .count 2) ∧
  (∀ (p : Byte) (s t : State) (h : Handle) (a : WriteAnswer) (as : List WriteAnswer),
    s.pending = none → s.handle = some h → s.fsm = .ready → s.writeAnswers = a :: as → s.suppress = false →
    exec (.wrDr p) s = .next t → (t.suppress = true ↔ a ≠ .count 2))

/-! ### What holds of whole commands -/

/-- Each command causes exactly the writes its rule states, none merged, dropped, reordered or retried (R48): a command that
has responded, and whose open and addressing did not fail, has appended exactly its frames. -/
def Obligations.EachCommandWritesExactlyItsFrames : Prop :=
  ∀ (i : Instr) (s t : State), i.wellFormedAt .command = true → exec i s = .next t → t.Idle →
    (∀ e, t.hist.getLast? ≠ some (.resp .deviceOpenFailed (some e))) →
    (∀ e, t.hist.getLast? ≠ some (.resp .addressingFailed (some e))) →
    framesOf t.hist = framesOf s.hist ++ commandFrames i s

/-- Exactly one response per accepted command, when it ends (R23): a command that leaves CORE idle has appended one, one
that waits none; a running command's step appends one exactly when it leaves CORE idle. -/
def Obligations.OneResponsePerCommand : Prop :=
  ∀ s t : State, LifeCycle s → step s = .next t → (s.Idle → s.host ≠ []) →
    t.hist.countP Event.isResp = s.hist.countP Event.isResp + (if t.Idle then 1 else 0)

/-- A command runs until it has responded or waits for PLATFORM: it is never left in between (R113). -/
def Obligations.CommandRunsToResponseOrWaits : Prop :=
  ∀ (i : Instr) (s t : State), i.wellFormedAt .command = true → exec i s = .next t → t.AtRest

/-- The two granularities of R113 agree, wherever PLATFORM is late: a command run in one step against all its answers ends
as the same command run against the first of them, held at whatever primitive they leave in flight, and then run one
primitive at a time once the others have come. With no answer at first, every answer comes only after its request. -/
def Obligations.OneStepEqualsMicroSteps : Prop :=
  ∀ (s t u : State) (w : Word) (os : List OpenAnswer) (cs : List ConfigAnswer) (as : List WriteAnswer),
    s.Idle → s.host = [w] → step s = .next u →
    step { s with
      openAnswers := s.openAnswers ++ os
      configAnswers := s.configAnswers ++ cs
      writeAnswers := s.writeAnswers ++ as } = .next t →
    ∃ n, Host.Core.run Sys2Proof.core n { u with
      openAnswers := u.openAnswers ++ os
      configAnswers := u.configAnswers ++ cs
      writeAnswers := u.writeAnswers ++ as } = .next t

/-! ### Invariants -/

/-- The invariant holds after reset. -/
def Obligations.InvariantHoldsAtReset : Prop := LifeCycle State.reset

/-- Every step keeps the invariant of R32, whatever word is presented and whatever PLATFORM answers. -/
def Obligations.StepKeepsTheInvariant : Prop := ∀ s t : State, LifeCycle s → step s = .next t → LifeCycle t

/-- In every state that meets the invariant a step completes: the precondition of `Transmit` holds wherever a rule calls it
(R81), so none of the model's own stops is met (log entries 16, 17). That the step of a CORE that waits, idle without a word
or with its primitive unanswered, is a step to the same state is log entry 10. -/
def Obligations.InvariantStatesAlwaysStep : Prop := ∀ s : State, LifeCycle s → Completes (step s)

/-- "released exactly once" (R12, R109): after reset and after every step the handles closed and the one held are, one for
one, the handles `open` returned, of which there is at most one. (That INIT closes after a failed addressing is decision
D15.) -/
def Obligations.HandleIsReleasedExactlyOnce : Prop :=
  HandleBalance State.reset ∧ ∀ s t : State, LifeCycle s → HandleBalance s → step s = .next t → HandleBalance t

/-- Every write of an instance goes to the latched address (R13, R41): every step keeps it, and it holds after reset. -/
def Obligations.EveryWriteGoesToTheLatchedAddress : Prop :=
  AddressHeld State.reset ∧ ∀ s t : State, LifeCycle s → AddressHeld s → step s = .next t → AddressHeld t

/-- The latched address and variant are written by INIT only, from the configuration inputs as they stand when it is
accepted, the address masked to 7 bits (R13, R14, R21, R41). The word 0x0100 is INIT's by decision D2 (log entry 25). -/
def Obligations.OnlyInitWritesAddressAndVariant : Prop :=
  ∀ s t : State, step s = .next t →
    (t.addr7 = s.addr7 ∧ t.variant = s.variant) ∨
    (s.Idle ∧ s.fsm = .unopened ∧ (∃ rest, s.host = 0x0100#16 :: rest) ∧
      t.addr7 = maskAddr s.cfg.addr ∧ t.variant = s.cfg.variant)

/-- The life-cycle state never moves backward; Ready is left by SHUT only, Unopened by INIT only, Closed never (R32 d,
R110). The words 0x0500 and 0x0100 are SHUT's and INIT's by decision D2, the order of the codes is decision D5 (log entry
25). -/
def Obligations.LifeCycleNeverMovesBackward : Prop :=
  ∀ s t : State, LifeCycle s → step s = .next t →
    s.fsm.code.toNat ≤ t.fsm.code.toNat ∧
    (s.fsm = .ready → t.fsm ≠ .ready → t.fsm = .closed ∧ ∃ rest, s.host = 0x0500#16 :: rest) ∧
    (s.fsm = .unopened → t.fsm ≠ .unopened → ∃ rest, s.host = 0x0100#16 :: rest)

/-- The error-suppression latch (R15, R82, R130): a step sets it exactly if one of its writes fails and never clears it, and
the failures it reports are ERROR for the first on a clear latch and DEBUG ever after, one report each. -/
def Obligations.LatchIsSetOnceAndDowngradesReports : Prop :=
  ∀ s t : State, step s = .next t →
    ∃ es, t.hist = s.hist ++ es ∧ t.suppress = (s.suppress || es.any Event.failedWrite) ∧
      txSeverities es = latchedSeverities s.suppress (es.countP Event.failedWrite)

/-- The two program ROMs are immutable (R55): no step writes ROM_INIT (nor the other parameter, nor the configuration
inputs, which are the model's choices of log entries 4 and 5), a fetch from ROM_INIT sees the stored entry, and BL's variable payload is no store into ROM_BL: SEQ hands MUX the
stored entry everywhere but at `BL_VALUE_INDEX`, where 240 or 50 replaces the payload on the way (R86; the position is decision D10). -/
def Obligations.RomsAreNeverWritten : Prop :=
  (∀ s t : State, step s = .next t → t.romInit = s.romInit ∧ t.hasStop = s.hasStop ∧ t.cfg = s.cfg) ∧
  (∀ s : State, s.src = .romInit → selectFrame s = s.romInit[s.seqPc]?) ∧
  (∀ s : State, s.src = .romBl → s.seqPc ≠ blValueIndex → selectFrame s = blProgram[s.seqPc]?) ∧
  (∀ (s : State) (e : RomEntry), s.src = .romBl → s.seqPc = blValueIndex → blProgram[s.seqPc]? = some e →
    selectFrame s = some ⟨e.control, if s.opnd.getLsbD 0 then 240 else 50⟩)

/-- HOST is held while a command runs (R22): a step of a busy CORE takes no word from the command port. -/
def Obligations.BusyCoreTakesNoCommand : Prop :=
  ∀ s t : State, ¬ s.Idle → step s = .next t → t.host = s.host

/-- A clean end of a run (R162, decision D26), no further word, idle and no handle, is in Unopened or Closed. -/
def Obligations.CleanEndIsUnopenedOrClosed : Prop :=
  ∀ s : State, LifeCycle s → s.CleanEnd → s.fsm = .unopened ∨ s.fsm = .closed

/-! ### What steers nothing -/

/-- No command tests a flag to decide control flow: from two states that are equal but for the two flags and what they have
chosen so far, a step does the same but for the severity of a failure report and OK against TransportError (R33). The
states after are again equal but for these, so it holds of every number of steps. -/
def Obligations.FlagsNeverSteer : Prop :=
  ∀ s t : State, s.eraseFlags = t.eraseFlags →
    mapNext State.eraseFlags (step s) = mapNext State.eraseFlags (step t)

/-- The variant flag reaches nothing but the reports: no address, no byte, no length (R14, R41, 90 C3). From two states that
are equal but for the variant, its input and the variants reported so far, a step does the same but for these, so it holds
of every number of steps. That a TX_FAIL report carries the variant is log entry 15. -/
def Obligations.VariantReachesOnlyTheReports : Prop :=
  ∀ s t : State, s.eraseVariant = t.eraseVariant →
    mapNext State.eraseVariant (step s) = mapNext State.eraseVariant (step t)

/-- The registers reset leaves unspecified are never read before a command writes them (R31): outside Ready, whatever they
hold, a step from an idle state does the same and leaves the same history. -/
def Obligations.UnspecifiedRegistersAreNeverRead : Prop :=
  ∀ (s : State) (a7 : Addr7) (v : Variant) (b : Byte) (rs : RegSelect), s.Idle → s.fsm ≠ .ready →
    mapNext State.eraseUnspecified (step { s with addr7 := a7, variant := v, opnd := b, rs := rs }) =
      mapNext State.eraseUnspecified (step s)
end

