-- ==== Sys2Proof/Laws/Decode.lean ====
section
/-! SUPPORT. What the byte helpers, the decoders and the encoder do, once each. -/

namespace Sys2Proof
theorem Word.ofBytes_toNat (h l : Byte) : (Word.ofBytes h l).toNat = h.toNat * 256 + l.toNat := by
  have := l.isLt
  have e : (Word.ofBytes h l).toNat = h.toNat <<< 8 ||| l.toNat := BitVec.toNat_append h l
  rw [e, ← Nat.shiftLeft_add_eq_or_of_lt this, Nat.shiftLeft_eq]
@[simp] theorem Word.low_ofBytes (h l : Byte) : Word.low (Word.ofBytes h l) = l := by
  apply BitVec.eq_of_toNat_eq
  have := l.isLt
  simp only [Word.low, BitVec.toNat_setWidth, Word.ofBytes_toNat]; omega
@[simp] theorem Word.high_ofBytes (h l : Byte) : Word.high (Word.ofBytes h l) = h := by
  apply BitVec.eq_of_toNat_eq
  have := l.isLt
  have := h.isLt
  simp only [Word.high, BitVec.toNat_setWidth, BitVec.toNat_ushiftRight, Word.ofBytes_toNat, Nat.shiftRight_eq_div_pow]; omega
theorem Word.ofBytes_high_low (w : Word) : Word.ofBytes (Word.high w) (Word.low w) = w := by
  apply BitVec.eq_of_toNat_eq
  have := w.isLt
  simp only [Word.ofBytes_toNat, Word.high, Word.low, BitVec.toNat_setWidth, BitVec.toNat_ushiftRight, Nat.shiftRight_eq_div_pow]; omega
theorem Word.ofBytes_inj {h l h' l' : Byte} : Word.ofBytes h l = Word.ofBytes h' l' ↔ h = h' ∧ l = l' :=
  ⟨fun e => ⟨by simpa using congrArg Word.high e, by simpa using congrArg Word.low e⟩, fun ⟨a, b⟩ => by rw [a, b]⟩
theorem Word.ofBytes_and (h l h' l' : Byte) :
    Word.ofBytes h l &&& Word.ofBytes h' l' = Word.ofBytes (h &&& h') (l &&& l') := by
  exact BitVec.and_append
theorem Word.selects_ofBytes (h l mh ml ph pl : Byte) :
    Word.selects (Word.ofBytes h l) (Word.ofBytes mh ml) (Word.ofBytes ph pl) = (h &&& mh == ph && l &&& ml == pl) := by
  rw [Bool.eq_iff_iff]
  simp [Word.selects, Word.ofBytes_and, Word.ofBytes_inj]
theorem byte_and_fe (l : Byte) : l &&& 0xFE#8 = 0 ↔ l = 0 ∨ l = 1 := by
  revert l; decide
theorem decodeFrame_ofBytes (c p : Byte) : decodeFrame (Word.ofBytes c p) =
    if c = 0x80#8 then .ok (.wrIr p) else if c = 0x40#8 then .ok (.wrDr p) else .error (.rawFrame c) := by
  have hm : (0xFF00#16 : Word) = Word.ofBytes 0xFF#8 0 := by decide
  have h1 : (0x8000#16 : Word) = Word.ofBytes 0x80#8 0 := by decide
  have h2 : (0x4000#16 : Word) = Word.ofBytes 0x40#8 0 := by decide
  have ff : ∀ b : Byte, b &&& 0xFF#8 = b := by decide
  simp only [decodeFrame, hm, h1, h2, Word.selects_ofBytes, ff]
  simp
theorem decodeCommand_ofBytes (op arg : Byte) : decodeCommand (Word.ofBytes op arg) =
    if op = 0x01#8 ∧ arg = 0 then .ok .init
    else if op = 0x02#8 then .ok (.sendi arg)
    else if op = 0x03#8 then .ok (.sendd arg)
    else if op = 0x04#8 ∧ (arg = 0 ∨ arg = 1) then .ok (.bl (arg == 1))
    else if op = 0x05#8 ∧ arg = 0 then .ok .shut
    else .error (illegalReason (Word.ofBytes op arg)) := by
  have m1 : (0xFFFF#16 : Word) = Word.ofBytes 0xFF#8 0xFF#8 := by decide
  have m2 : (0xFF00#16 : Word) = Word.ofBytes 0xFF#8 0 := by decide
  have m3 : (0xFFFE#16 : Word) = Word.ofBytes 0xFF#8 0xFE#8 := by decide
  have h1 : (0x0100#16 : Word) = Word.ofBytes 0x01#8 0 := by decide
  have h2 : (0x0200#16 : Word) = Word.ofBytes 0x02#8 0 := by decide
  have h3 : (0x0300#16 : Word) = Word.ofBytes 0x03#8 0 := by decide
  have h4 : (0x0400#16 : Word) = Word.ofBytes 0x04#8 0 := by decide
  have h5 : (0x0500#16 : Word) = Word.ofBytes 0x05#8 0 := by decide
  have ff : ∀ b : Byte, b &&& 0xFF#8 = b := by decide
  have zz : ∀ b : Byte, (b &&& 0 = 0) = True := by decide
  have bit : (Word.ofBytes op arg).getLsbD 0 = arg.getLsbD 0 := (BitVec.getLsbD_append (x := op) (y := arg)).trans (by simp)
  have on : arg = 0 ∨ arg = 1 → arg.getLsbD 0 = (arg == 1) := by rintro (h | h) <;> subst h <;> decide
  simp only [decodeCommand, m1, m2, m3, h1, h2, h3, h4, h5, Word.selects_ofBytes, ff, bit, Word.low_ofBytes]
  simp only [Bool.and_eq_true, beq_iff_eq, byte_and_fe, zz, and_true]
  by_cases h : op = 0x04#8 ∧ (arg = 0 ∨ arg = 1)
  · simp only [h, on h.2, and_self, if_true]
  · simp only [h, if_false]
end Sys2Proof
end

