-- ==== Sys2Proof/Laws/History.lean ====
section
/-! SUPPORT. The small lemmas of the history's projections: of nothing, of two histories, of one event in front. -/

namespace Sys2Proof.Machine

@[simp] theorem framesOf_nil : framesOf [] = [] := rfl

@[simp] theorem framesOf_append (es fs : List Event) : framesOf (es ++ fs) = framesOf es ++ framesOf fs :=
  List.filterMap_append

theorem framesOf_cons (e : Event) (es : List Event) : framesOf (e :: es) = (e.frame?).toList ++ framesOf es := by
  cases h : e.frame? <;> simp [framesOf, h]

@[simp] theorem closedHandles_nil : closedHandles [] = [] := rfl

@[simp] theorem closedHandles_append (es fs : List Event) : closedHandles (es ++ fs) = closedHandles es ++ closedHandles fs :=
  List.filterMap_append

theorem closedHandles_cons (e : Event) (es : List Event) : closedHandles (e :: es) = (e.closedHandle?).toList ++ closedHandles es := by
  cases h : e.closedHandle? <;> simp [closedHandles, h]

@[simp] theorem openedHandles_nil : openedHandles [] = [] := rfl

@[simp] theorem openedHandles_append (es fs : List Event) : openedHandles (es ++ fs) = openedHandles es ++ openedHandles fs :=
  List.filterMap_append

theorem openedHandles_cons (e : Event) (es : List Event) : openedHandles (e :: es) = (e.openedHandle?).toList ++ openedHandles es := by
  cases h : e.openedHandle? <;> simp [openedHandles, h]

@[simp] theorem variantReports_nil : variantReports [] = [] := rfl

@[simp] theorem variantReports_append (es fs : List Event) : variantReports (es ++ fs) = variantReports es ++ variantReports fs :=
  List.filterMap_append

theorem variantReports_cons (e : Event) (es : List Event) : variantReports (e :: es) = (e.variantReport?).toList ++ variantReports es := by
  cases h : e.variantReport? <;> simp [variantReports, h]

@[simp] theorem txSeverities_nil : txSeverities [] = [] := rfl

@[simp] theorem txSeverities_append (es fs : List Event) : txSeverities (es ++ fs) = txSeverities es ++ txSeverities fs :=
  List.filterMap_append

theorem txSeverities_cons (e : Event) (es : List Event) : txSeverities (e :: es) = (e.txSeverity?).toList ++ txSeverities es := by
  cases h : e.txSeverity? <;> simp [txSeverities, h]

section Events

variable (path : Path) (hd : Handle) (a7 : Addr7) (c p : Byte) (sev : Severity) (r : Report) (es : List Event)

@[simp] theorem framesOf_opened_ok :
    framesOf (.opened path (.ok hd) :: es) = framesOf es := rfl
@[simp] theorem framesOf_opened_err (e : OsError) :
    framesOf (.opened path (.err e) :: es) = framesOf es := rfl
@[simp] theorem framesOf_cfgAddr (b : ConfigAnswer) :
    framesOf (.cfgAddr hd a7 b :: es) = framesOf es := rfl
@[simp] theorem framesOf_write (w : WriteAnswer) :
    framesOf (.write hd a7 c p w :: es) = ⟨c, p⟩ :: framesOf es := rfl
@[simp] theorem framesOf_stop :
    framesOf (.stop hd :: es) = framesOf es := rfl
@[simp] theorem framesOf_close :
    framesOf (.close hd :: es) = framesOf es := rfl
@[simp] theorem framesOf_report :
    framesOf (.report sev r :: es) = framesOf es := rfl
@[simp] theorem framesOf_resp (st : Status) (info : Option OsError) :
    framesOf (.resp st info :: es) = framesOf es := rfl

@[simp] theorem closedHandles_opened_ok :
    closedHandles (.opened path (.ok hd) :: es) = closedHandles es := rfl
@[simp] theorem closedHandles_opened_err (e : OsError) :
    closedHandles (.opened path (.err e) :: es) = closedHandles es := rfl
@[simp] theorem closedHandles_cfgAddr (b : ConfigAnswer) :
    closedHandles (.cfgAddr hd a7 b :: es) = closedHandles es := rfl
@[simp] theorem closedHandles_write (w : WriteAnswer) :
    closedHandles (.write hd a7 c p w :: es) = closedHandles es := rfl
@[simp] theorem closedHandles_stop :
    closedHandles (.stop hd :: es) = closedHandles es := rfl
@[simp] theorem closedHandles_close :
    closedHandles (.close hd :: es) = hd :: closedHandles es := rfl
@[simp] theorem closedHandles_report :
    closedHandles (.report sev r :: es) = closedHandles es := rfl
@[simp] theorem closedHandles_resp (st : Status) (info : Option OsError) :
    closedHandles (.resp st info :: es) = closedHandles es := rfl

@[simp] theorem openedHandles_opened_ok :
    openedHandles (.opened path (.ok hd) :: es) = hd :: openedHandles es := rfl
@[simp] theorem openedHandles_opened_err (e : OsError) :
    openedHandles (.opened path (.err e) :: es) = openedHandles es := rfl
@[simp] theorem openedHandles_cfgAddr (b : ConfigAnswer) :
    openedHandles (.cfgAddr hd a7 b :: es) = openedHandles es := rfl
@[simp] theorem openedHandles_write (w : WriteAnswer) :
    openedHandles (.write hd a7 c p w :: es) = openedHandles es := rfl
@[simp] theorem openedHandles_stop :
    openedHandles (.stop hd :: es) = openedHandles es := rfl
@[simp] theorem openedHandles_close :
    openedHandles (.close hd :: es) = openedHandles es := rfl
@[simp] theorem openedHandles_report :
    openedHandles (.report sev r :: es) = openedHandles es := rfl
@[simp] theorem openedHandles_resp (st : Status) (info : Option OsError) :
    openedHandles (.resp st info :: es) = openedHandles es := rfl

@[simp] theorem variantReports_opened_ok :
    variantReports (.opened path (.ok hd) :: es) = variantReports es := rfl
@[simp] theorem variantReports_opened_err (e : OsError) :
    variantReports (.opened path (.err e) :: es) = variantReports es := rfl
@[simp] theorem variantReports_cfgAddr (b : ConfigAnswer) :
    variantReports (.cfgAddr hd a7 b :: es) = variantReports es := rfl
@[simp] theorem variantReports_write (w : WriteAnswer) :
    variantReports (.write hd a7 c p w :: es) = variantReports es := rfl
@[simp] theorem variantReports_stop :
    variantReports (.stop hd :: es) = variantReports es := rfl
@[simp] theorem variantReports_close :
    variantReports (.close hd :: es) = variantReports es := rfl
@[simp] theorem variantReports_report :
    variantReports (.report sev r :: es) = (if r.kind = .variantInfo then [r.variant] else []) ++ variantReports es := by
  rw [variantReports_cons]; simp only [Event.variantReport?]; split <;> rfl
@[simp] theorem variantReports_resp (st : Status) (info : Option OsError) :
    variantReports (.resp st info :: es) = variantReports es := rfl

@[simp] theorem txSeverities_opened_ok :
    txSeverities (.opened path (.ok hd) :: es) = txSeverities es := rfl
@[simp] theorem txSeverities_opened_err (e : OsError) :
    txSeverities (.opened path (.err e) :: es) = txSeverities es := rfl
@[simp] theorem txSeverities_cfgAddr (b : ConfigAnswer) :
    txSeverities (.cfgAddr hd a7 b :: es) = txSeverities es := rfl
@[simp] theorem txSeverities_write (w : WriteAnswer) :
    txSeverities (.write hd a7 c p w :: es) = txSeverities es := rfl
@[simp] theorem txSeverities_stop :
    txSeverities (.stop hd :: es) = txSeverities es := rfl
@[simp] theorem txSeverities_close :
    txSeverities (.close hd :: es) = txSeverities es := rfl
@[simp] theorem txSeverities_report :
    txSeverities (.report sev r :: es) = (if r.kind = .txFail then [sev] else []) ++ txSeverities es := by
  rw [txSeverities_cons]; simp only [Event.txSeverity?]; split <;> rfl
@[simp] theorem txSeverities_resp (st : Status) (info : Option OsError) :
    txSeverities (.resp st info :: es) = txSeverities es := rfl

end Events

end Sys2Proof.Machine
end

