-- ==== Sys2Proof/Laws/State.lean ====
section
/-! SUPPORT. One lemma per field per named update of the state. -/

namespace Sys2Proof.Machine

variable (s : State)

@[simp] theorem State.emit_fsm (e : Event) : (s.emit e).fsm = s.fsm := rfl
@[simp] theorem State.emit_handle (e : Event) : (s.emit e).handle = s.handle := rfl
@[simp] theorem State.emit_addr7 (e : Event) : (s.emit e).addr7 = s.addr7 := rfl
@[simp] theorem State.emit_variant (e : Event) : (s.emit e).variant = s.variant := rfl
@[simp] theorem State.emit_suppress (e : Event) : (s.emit e).suppress = s.suppress := rfl
@[simp] theorem State.emit_aggFail (e : Event) : (s.emit e).aggFail = s.aggFail := rfl
@[simp] theorem State.emit_seqPc (e : Event) : (s.emit e).seqPc = s.seqPc := rfl
@[simp] theorem State.emit_src (e : Event) : (s.emit e).src = s.src := rfl
@[simp] theorem State.emit_opnd (e : Event) : (s.emit e).opnd = s.opnd := rfl
@[simp] theorem State.emit_pending (e : Event) : (s.emit e).pending = s.pending := rfl
@[simp] theorem State.emit_rs (e : Event) : (s.emit e).rs = s.rs := rfl
@[simp] theorem State.emit_cfg (e : Event) : (s.emit e).cfg = s.cfg := rfl
@[simp] theorem State.emit_hasStop (e : Event) : (s.emit e).hasStop = s.hasStop := rfl
@[simp] theorem State.emit_romInit (e : Event) : (s.emit e).romInit = s.romInit := rfl
@[simp] theorem State.emit_host (e : Event) : (s.emit e).host = s.host := rfl
@[simp] theorem State.emit_openAnswers (e : Event) : (s.emit e).openAnswers = s.openAnswers := rfl
@[simp] theorem State.emit_configAnswers (e : Event) : (s.emit e).configAnswers = s.configAnswers := rfl
@[simp] theorem State.emit_writeAnswers (e : Event) : (s.emit e).writeAnswers = s.writeAnswers := rfl
@[simp] theorem State.emit_hist (e : Event) : (s.emit e).hist = s.hist ++ [e] := rfl

@[simp] theorem State.accept_fsm (arg : Byte) : (s.accept arg).fsm = s.fsm := rfl
@[simp] theorem State.accept_handle (arg : Byte) : (s.accept arg).handle = s.handle := rfl
@[simp] theorem State.accept_addr7 (arg : Byte) : (s.accept arg).addr7 = s.addr7 := rfl
@[simp] theorem State.accept_variant (arg : Byte) : (s.accept arg).variant = s.variant := rfl
@[simp] theorem State.accept_suppress (arg : Byte) : (s.accept arg).suppress = s.suppress := rfl
@[simp] theorem State.accept_aggFail (arg : Byte) : (s.accept arg).aggFail = false := rfl
@[simp] theorem State.accept_seqPc (arg : Byte) : (s.accept arg).seqPc = s.seqPc := rfl
@[simp] theorem State.accept_src (arg : Byte) : (s.accept arg).src = s.src := rfl
@[simp] theorem State.accept_opnd (arg : Byte) : (s.accept arg).opnd = arg := rfl
@[simp] theorem State.accept_pending (arg : Byte) : (s.accept arg).pending = s.pending := rfl
@[simp] theorem State.accept_rs (arg : Byte) : (s.accept arg).rs = s.rs := rfl
@[simp] theorem State.accept_cfg (arg : Byte) : (s.accept arg).cfg = s.cfg := rfl
@[simp] theorem State.accept_hasStop (arg : Byte) : (s.accept arg).hasStop = s.hasStop := rfl
@[simp] theorem State.accept_romInit (arg : Byte) : (s.accept arg).romInit = s.romInit := rfl
@[simp] theorem State.accept_host (arg : Byte) : (s.accept arg).host = s.host := rfl
@[simp] theorem State.accept_openAnswers (arg : Byte) : (s.accept arg).openAnswers = s.openAnswers := rfl
@[simp] theorem State.accept_configAnswers (arg : Byte) : (s.accept arg).configAnswers = s.configAnswers := rfl
@[simp] theorem State.accept_writeAnswers (arg : Byte) : (s.accept arg).writeAnswers = s.writeAnswers := rfl
@[simp] theorem State.accept_hist (arg : Byte) : (s.accept arg).hist = s.hist := rfl

@[simp] theorem State.respond_fsm (st : Status) (info : Option OsError) : (s.respond st info).fsm = s.fsm := rfl
@[simp] theorem State.respond_handle (st : Status) (info : Option OsError) : (s.respond st info).handle = s.handle := rfl
@[simp] theorem State.respond_addr7 (st : Status) (info : Option OsError) : (s.respond st info).addr7 = s.addr7 := rfl
@[simp] theorem State.respond_variant (st : Status) (info : Option OsError) : (s.respond st info).variant = s.variant := rfl
@[simp] theorem State.respond_suppress (st : Status) (info : Option OsError) : (s.respond st info).suppress = s.suppress := rfl
@[simp] theorem State.respond_aggFail (st : Status) (info : Option OsError) : (s.respond st info).aggFail = s.aggFail := rfl
@[simp] theorem State.respond_seqPc (st : Status) (info : Option OsError) : (s.respond st info).seqPc = s.seqPc := rfl
@[simp] theorem State.respond_src (st : Status) (info : Option OsError) : (s.respond st info).src = .none := rfl
@[simp] theorem State.respond_opnd (st : Status) (info : Option OsError) : (s.respond st info).opnd = s.opnd := rfl
@[simp] theorem State.respond_pending (st : Status) (info : Option OsError) : (s.respond st info).pending = s.pending := rfl
@[simp] theorem State.respond_rs (st : Status) (info : Option OsError) : (s.respond st info).rs = s.rs := rfl
@[simp] theorem State.respond_cfg (st : Status) (info : Option OsError) : (s.respond st info).cfg = s.cfg := rfl
@[simp] theorem State.respond_hasStop (st : Status) (info : Option OsError) : (s.respond st info).hasStop = s.hasStop := rfl
@[simp] theorem State.respond_romInit (st : Status) (info : Option OsError) : (s.respond st info).romInit = s.romInit := rfl
@[simp] theorem State.respond_host (st : Status) (info : Option OsError) : (s.respond st info).host = s.host := rfl
@[simp] theorem State.respond_openAnswers (st : Status) (info : Option OsError) : (s.respond st info).openAnswers = s.openAnswers := rfl
@[simp] theorem State.respond_configAnswers (st : Status) (info : Option OsError) : (s.respond st info).configAnswers = s.configAnswers := rfl
@[simp] theorem State.respond_writeAnswers (st : Status) (info : Option OsError) : (s.respond st info).writeAnswers = s.writeAnswers := rfl
@[simp] theorem State.respond_hist (st : Status) (info : Option OsError) : (s.respond st info).hist = s.hist ++ [.resp st info] := rfl

@[simp] theorem State.report_fsm (sev : Severity) (kind : ReportKind) (p : Byte) : (s.report sev kind p).fsm = s.fsm := rfl
@[simp] theorem State.report_handle (sev : Severity) (kind : ReportKind) (p : Byte) : (s.report sev kind p).handle = s.handle := rfl
@[simp] theorem State.report_addr7 (sev : Severity) (kind : ReportKind) (p : Byte) : (s.report sev kind p).addr7 = s.addr7 := rfl
@[simp] theorem State.report_variant (sev : Severity) (kind : ReportKind) (p : Byte) : (s.report sev kind p).variant = s.variant := rfl
@[simp] theorem State.report_suppress (sev : Severity) (kind : ReportKind) (p : Byte) : (s.report sev kind p).suppress = s.suppress := rfl
@[simp] theorem State.report_aggFail (sev : Severity) (kind : ReportKind) (p : Byte) : (s.report sev kind p).aggFail = s.aggFail := rfl
@[simp] theorem State.report_seqPc (sev : Severity) (kind : ReportKind) (p : Byte) : (s.report sev kind p).seqPc = s.seqPc := rfl
@[simp] theorem State.report_src (sev : Severity) (kind : ReportKind) (p : Byte) : (s.report sev kind p).src = s.src := rfl
@[simp] theorem State.report_opnd (sev : Severity) (kind : ReportKind) (p : Byte) : (s.report sev kind p).opnd = s.opnd := rfl
@[simp] theorem State.report_pending (sev : Severity) (kind : ReportKind) (p : Byte) : (s.report sev kind p).pending = s.pending := rfl
@[simp] theorem State.report_rs (sev : Severity) (kind : ReportKind) (p : Byte) : (s.report sev kind p).rs = s.rs := rfl
@[simp] theorem State.report_cfg (sev : Severity) (kind : ReportKind) (p : Byte) : (s.report sev kind p).cfg = s.cfg := rfl
@[simp] theorem State.report_hasStop (sev : Severity) (kind : ReportKind) (p : Byte) : (s.report sev kind p).hasStop = s.hasStop := rfl
@[simp] theorem State.report_romInit (sev : Severity) (kind : ReportKind) (p : Byte) : (s.report sev kind p).romInit = s.romInit := rfl
@[simp] theorem State.report_host (sev : Severity) (kind : ReportKind) (p : Byte) : (s.report sev kind p).host = s.host := rfl
@[simp] theorem State.report_openAnswers (sev : Severity) (kind : ReportKind) (p : Byte) : (s.report sev kind p).openAnswers = s.openAnswers := rfl
@[simp] theorem State.report_configAnswers (sev : Severity) (kind : ReportKind) (p : Byte) : (s.report sev kind p).configAnswers = s.configAnswers := rfl
@[simp] theorem State.report_writeAnswers (sev : Severity) (kind : ReportKind) (p : Byte) : (s.report sev kind p).writeAnswers = s.writeAnswers := rfl
@[simp] theorem State.report_hist (sev : Severity) (kind : ReportKind) (p : Byte) : (s.report sev kind p).hist = s.hist ++ [.report sev ⟨kind, p, s.addr7, s.variant⟩] := rfl

@[simp] theorem State.busClose_fsm (h : Handle) : (s.busClose h).fsm = s.fsm := rfl
@[simp] theorem State.busClose_handle (h : Handle) : (s.busClose h).handle = none := rfl
@[simp] theorem State.busClose_addr7 (h : Handle) : (s.busClose h).addr7 = s.addr7 := rfl
@[simp] theorem State.busClose_variant (h : Handle) : (s.busClose h).variant = s.variant := rfl
@[simp] theorem State.busClose_suppress (h : Handle) : (s.busClose h).suppress = s.suppress := rfl
@[simp] theorem State.busClose_aggFail (h : Handle) : (s.busClose h).aggFail = s.aggFail := rfl
@[simp] theorem State.busClose_seqPc (h : Handle) : (s.busClose h).seqPc = s.seqPc := rfl
@[simp] theorem State.busClose_src (h : Handle) : (s.busClose h).src = s.src := rfl
@[simp] theorem State.busClose_opnd (h : Handle) : (s.busClose h).opnd = s.opnd := rfl
@[simp] theorem State.busClose_pending (h : Handle) : (s.busClose h).pending = s.pending := rfl
@[simp] theorem State.busClose_rs (h : Handle) : (s.busClose h).rs = s.rs := rfl
@[simp] theorem State.busClose_cfg (h : Handle) : (s.busClose h).cfg = s.cfg := rfl
@[simp] theorem State.busClose_hasStop (h : Handle) : (s.busClose h).hasStop = s.hasStop := rfl
@[simp] theorem State.busClose_romInit (h : Handle) : (s.busClose h).romInit = s.romInit := rfl
@[simp] theorem State.busClose_host (h : Handle) : (s.busClose h).host = s.host := rfl
@[simp] theorem State.busClose_openAnswers (h : Handle) : (s.busClose h).openAnswers = s.openAnswers := rfl
@[simp] theorem State.busClose_configAnswers (h : Handle) : (s.busClose h).configAnswers = s.configAnswers := rfl
@[simp] theorem State.busClose_writeAnswers (h : Handle) : (s.busClose h).writeAnswers = s.writeAnswers := rfl
@[simp] theorem State.busClose_hist (h : Handle) : (s.busClose h).hist = s.hist ++ [.close h] := rfl

end Sys2Proof.Machine
end

