-- ==== Sys2Proof/Laws/Ops.lean ====
section
/-! SUPPORT. For each shared operation, once, everything it can do; and the induction a property of every step takes. -/

namespace Sys2Proof.Machine

open Host (Outcome)

theorem next_inj {s t : State} : (Outcome.next s : Outcome State Fault Refusal) = .next t ↔ s = t :=
  ⟨fun h => by injection h, fun h => by rw [h]⟩

theorem mapNext_eq_next {f : State → State} {o : Outcome State Fault Refusal} {t : State} :
    mapNext f o = .next t ↔ ∃ u, o = .next u ∧ t = f u := by
  cases o <;> simp [mapNext, eq_comm]

theorem bindNext_eq_next {f : State → Outcome State Fault Refusal} {o : Outcome State Fault Refusal} {t : State} :
    bindNext f o = .next t ↔ ∃ u, o = .next u ∧ f u = .next t := by
  cases o <;> simp [bindNext]

/-- The two ways a write waits or is answered. -/
theorem awaitWrite_cases (h : Handle) (a7 : Addr7) (c p : Byte) (s : State) :
    (s.writeAnswers = [] ∧ s.awaitWrite h a7 c p = s) ∨
    (∃ a rest, s.writeAnswers = a :: rest ∧
      s.awaitWrite h a7 c p = { s with writeAnswers := rest }.completeWrite h a7 c p a) := by
  unfold State.awaitWrite
  cases hw : s.writeAnswers with
  | nil => exact .inl ⟨rfl, rfl⟩
  | cons a rest => exact .inr ⟨a, rest, rfl, rfl⟩

/-- A release issues `BusStop` only where the platform has it, closes the handle and goes to Closed. -/
theorem release_eq (h : Handle) (s : State) :
    s.release h =
      { s with
        fsm := .closed
        handle := none
        hist := s.hist ++ (if s.hasStop then [.stop h] else []) ++ [.close h] } := by
  cases hs : s.hasStop <;> simp [State.release, hs, State.busClose, State.emit]

/-- The three ways an `open` waits or is answered. -/
theorem awaitOpen_cases (path : Path) (s : State) :
    (s.openAnswers = [] ∧ s.awaitOpen path = s) ∨
    (∃ h rest, s.openAnswers = .ok h :: rest ∧
      s.awaitOpen path =
        { s with
          openAnswers := rest
          handle := some h
          fsm := .addressed
          pending := some (.configAddr h s.addr7)
          hist := s.hist ++ [.opened path (.ok h)] }) ∨
    (∃ e rest, s.openAnswers = .err e :: rest ∧
      s.awaitOpen path =
        { s with
          openAnswers := rest
          fsm := .closed
          src := .none
          pending := none
          hist := s.hist ++ [.opened path (.err e), .resp .deviceOpenFailed (some e)] }) := by
  unfold State.awaitOpen
  cases hw : s.openAnswers with
  | nil => exact .inl ⟨rfl, rfl⟩
  | cons a rest =>
    cases a with
    | ok h => exact .inr (.inl ⟨h, rest, rfl, rfl⟩)
    | err e => exact .inr (.inr ⟨e, rest, rfl, by simp [State.completeOpen, State.raise, State.respond, State.emit]⟩)

/-- The state after a good answer to `configureAddress`, before a program that has no entry ends (R103). -/
def configured (h : Handle) (a7 : Addr7) (rest : List ConfigAnswer) (s : State) : State :=
  { s with
    configAnswers := rest
    fsm := .initializing
    seqPc := 0
    pending := none
    hist := s.hist ++ [.cfgAddr h a7 .ok, .report .info ⟨.variantInfo, 0, s.addr7, s.variant⟩] }

/-- The ways a `configureAddress` waits or is answered. -/
theorem awaitConfig_cases (h : Handle) (a7 : Addr7) (s : State) :
    (s.configAnswers = [] ∧ s.awaitConfig h a7 = s) ∨
    (∃ rest, s.configAnswers = .ok :: rest ∧
      s.awaitConfig h a7 =
        if 0 < programLength s then configured h a7 rest s else (configured h a7 rest s).endProgram) ∨
    (∃ e rest, s.configAnswers = .err e :: rest ∧
      s.awaitConfig h a7 =
        { s with
          configAnswers := rest
          fsm := .closed
          handle := none
          src := .none
          pending := none
          hist := s.hist ++ [.cfgAddr h a7 (.err e), .close h, .resp .addressingFailed (some e)] }) := by
  unfold State.awaitConfig
  cases hw : s.configAnswers with
  | nil => exact .inl ⟨rfl, rfl⟩
  | cons a rest =>
    cases a with
    | ok =>
      exact .inr (.inl ⟨rest, rfl, by
        simp [State.completeConfig, configured, State.report, State.emit]
        rfl⟩)
    | err e =>
      exact .inr (.inr ⟨e, rest, rfl, by
        simp [State.completeConfig, State.raise, State.respond, State.emit, State.busClose]⟩)

/-- An answered write appends its event and, if it failed, its report, and sets the two flags if it failed. -/
theorem completeWrite_eq (h : Handle) (a7 : Addr7) (c p : Byte) (a : WriteAnswer) (s : State) :
    s.completeWrite h a7 c p a =
      { s with
        pending := none
        suppress := s.suppress || a.failed
        aggFail := s.aggFail || a.failed
        hist := s.hist ++ .write h a7 c p a ::
          (if a.failed then [.report (failSeverity s.suppress) ⟨.txFail, p, s.addr7, s.variant⟩] else []) } := by
  cases ha : a.failed <;> simp [State.completeWrite, ha, State.raise, State.emit, State.report]

/-- `transmit` answers a next state exactly where R81's precondition holds and nothing is in flight. -/
theorem transmit_eq_next {c p : Byte} {s t : State} : transmit c p s = .next t ↔
    s.pending = none ∧ (s.fsm = .initializing ∨ s.fsm = .ready) ∧
      ∃ h, s.handle = some h ∧
        t = { s with pending := some (.write h s.addr7 c p) }.awaitWrite h s.addr7 c p := by
  unfold transmit
  cases hp : s.pending <;> cases hh : s.handle <;> simp
  split <;> simp_all [eq_comm]

/-- The end of a command's transmissions: nothing while MUX selects nothing, INIT's Ready, or the aggregate status. -/
theorem endProgram_cases (s : State) :
    (s.src = .none ∧ s.endProgram = s) ∨
    (s.src = .romInit ∧ s.endProgram = { s with fsm := .ready }.respond .ok none) ∨
    ((s.src = .direct ∨ s.src = .romBl) ∧ s.endProgram = s.respond (transportStatus s.aggFail) none) := by
  unfold State.endProgram
  cases s.src <;> simp

/-- Going on after a transmission: waiting, ending a send, advancing by one entry, or ending with the last one. -/
theorem continueCommand_cases (s : State) :
    ((s.pending ≠ none ∨ s.src = .none) ∧ s.continueCommand = s) ∨
    (s.pending = none ∧ s.src = .direct ∧ s.continueCommand = s.endProgram) ∨
    (s.pending = none ∧ (s.src = .romInit ∨ s.src = .romBl) ∧ s.seqPc + 1 < programLength s ∧
      s.continueCommand = { s with seqPc := s.seqPc + 1 }) ∨
    (s.pending = none ∧ (s.src = .romInit ∨ s.src = .romBl) ∧ programLength s ≤ s.seqPc + 1 ∧
      s.continueCommand = State.endProgram { s with seqPc := s.seqPc + 1 }) := by
  unfold State.continueCommand
  by_cases hl : s.seqPc + 1 < programLength s
  · cases s.pending <;> cases s.src <;> simp [hl]
  · have := Nat.not_lt.mp hl
    cases s.pending <;> cases s.src <;> simp [hl, this]

/-- With nothing in flight `transmit` never refuses. -/
theorem transmit_not_refused {c p : Byte} {s : State} (hp : s.pending = none) (r : Refusal) :
    transmit c p s ≠ .refused r := by
  unfold transmit
  rw [hp]
  cases s.handle with
  | none => exact nofun
  | some h => dsimp only; split <;> exact nofun

/-- A frame step is the transmission of its pair, whichever kind of frame it is. -/
theorem frameStep_eq (f : RomEntry) (s : State) :
    frameStep f s = mapNext State.continueCommand (transmit f.control f.payload s) := by
  unfold frameStep frameWord
  rw [decodeFrame_ofBytes]
  by_cases h1 : f.control = 0x80#8
  · simp [h1, exec, execWrIr, ctrlInstr]
  · by_cases h2 : f.control = 0x40#8
    · simp [h2, exec, execWrDr, ctrlData]
    · simp [h1, h2, execRaw]

/-- The running branch of a step is the micro-step a command's own run is made of. -/
theorem runningStep_eq (s : State) : runningStep s = busyStep s := by
  unfold runningStep
  cases hp : s.pending with
  | some r => simp
  | none => cases hf : selectFrame s <;> simp [busyStep, hp, hf, frameStep_eq]

theorem step_of_running {s : State} (h : ¬ s.Idle) : step s = busyStep s := by
  simp [step, h, runningStep_eq]

theorem step_of_idle {s : State} (h : s.Idle) : step s = commandStep s := by simp [step, h]

theorem commandStep_nil {s : State} (h : s.host = []) : commandStep s = .next s := by
  simp [commandStep, fetchCommand, h]

theorem commandStep_cons {s : State} {w : Word} {rest : List Word} (h : s.host = w :: rest) :
    commandStep s = match decodeCommand w with
      | .ok i => exec i { s with host := rest }
      | .error _ => .next (answerIllegal w { s with host := rest }) := by
  cases hd : decodeCommand w <;> simp [commandStep, fetchCommand, h, hd]

theorem asCommand_eq_next {arg : Byte} {body : State → Outcome State Fault Refusal} {s t : State} :
    asCommand arg body s = .next t ↔ s.Idle ∧ body (s.accept arg) = .next t := by
  unfold asCommand
  by_cases hi : s.Idle
  · rw [if_pos hi]; exact ⟨fun h => ⟨hi, h⟩, And.right⟩
  · rw [if_neg hi]; exact ⟨fun h => (nomatch h), fun h => absurd h.1 hi⟩

/-- The command port only ever decodes commands. -/
theorem decodeCommand_ok {w : Word} {i : Instr} (h : decodeCommand w = .ok i) : i.port = .command := by
  unfold decodeCommand at h
  repeat' split at h
  all_goals first | (injection h with h; subst h; rfl) | cases h

/-- A command at rest stays as it is. -/
theorem runToRest_of_rest {s : State} (h : s.AtRest) : ∀ n, runToRest n s = .next s
  | 0 => rfl
  | n + 1 => by rw [runToRest, if_pos h]

/-- A command not at rest takes a micro-step. -/
theorem runToRest_succ {s : State} (h : ¬ s.AtRest) (n : Nat) :
    runToRest (n + 1) s = bindNext (runToRest n) (busyStep s) := by rw [runToRest, if_neg h]

/-- A micro-step never refuses: it transmits only with nothing in flight. -/
theorem busyStep_not_refused (s : State) (r : Refusal) : busyStep s ≠ .refused r := by
  intro h
  unfold busyStep at h
  split at h
  · cases h
  · cases h
  · cases h
  · rename_i hp
    split at h
    · rename_i f hf
      cases ht : transmit f.control f.payload s with
      | next u => rw [ht] at h; cases h
      | fault u => rw [ht] at h; cases h
      | refused u => exact transmit_not_refused hp u ht
    · cases h

/-- What the run of a command preserves, if every micro-step does. -/
theorem runToRest_induct {P : State → Prop} (busy : ∀ u v, P u → ¬ u.AtRest → busyStep u = .next v → P v) :
    ∀ n s t, P s → runToRest n s = .next t → P t
  | 0, s, t, hs, h => by rw [runToRest, next_inj] at h; exact h ▸ hs
  | n + 1, s, t, hs, h => by
    unfold runToRest at h
    split at h
    · rw [next_inj] at h; exact h ▸ hs
    · rename_i hr
      obtain ⟨u, hu, h⟩ := bindNext_eq_next.mp h
      exact runToRest_induct busy n u t (busy s u hs hr hu) h

/-- How each command begins: refused with a response, shut down, or a run of micro-steps from its first state. -/
theorem exec_command_cases {i : Instr} {s t : State} (hi : i.port = .command) (h : exec i s = .next t) :
    s.Idle ∧ ∃ arg,
      (∃ st, t = (s.accept arg).respond st none) ∨
      (∃ hd, s.handle = some hd ∧ t = ((s.accept arg).release hd).respond .ok none) ∨
      (s.fsm = .ready ∧ ∃ rs, runToRest 1 ((s.accept arg).beginSend rs) = .next t) ∨
      (s.fsm = .ready ∧ runToRest 6 (s.accept arg).beginBacklight = .next t) ∨
      (s.fsm = .unopened ∧ runToRest (s.romInit.length + 2) (s.accept arg).beginInit = .next t) := by
  cases i <;> simp only [exec, execInit, execSendi, execSendd, execBl, execShut, asCommand_eq_next] at h
  case wrIr => cases hi
  case wrDr => cases hi
  case init =>
    refine ⟨h.1, 0, ?_⟩
    have h := h.2
    unfold bringUp at h
    split at h
    · rename_i hf; exact .inr (.inr (.inr (.inr ⟨hf, h⟩)))
    · rw [next_inj] at h; exact .inl ⟨_, h.symm⟩
  case sendi b =>
    refine ⟨h.1, b, ?_⟩
    have h := h.2
    unfold sendByte at h
    split at h
    · rename_i hf; exact .inr (.inr (.inl ⟨hf, _, h⟩))
    · rw [next_inj] at h; exact .inl ⟨_, h.symm⟩
  case sendd b =>
    refine ⟨h.1, b, ?_⟩
    have h := h.2
    unfold sendByte at h
    split at h
    · rename_i hf; exact .inr (.inr (.inl ⟨hf, _, h⟩))
    · rw [next_inj] at h; exact .inl ⟨_, h.symm⟩
  case bl on =>
    refine ⟨h.1, blOperand on, ?_⟩
    have h := h.2
    unfold setBacklight at h
    split at h
    · rename_i hf; exact .inr (.inr (.inr (.inl ⟨hf, h⟩)))
    · rw [next_inj] at h; exact .inl ⟨_, h.symm⟩
  case shut =>
    refine ⟨h.1, 0, ?_⟩
    have h := h.2
    unfold shutdown at h
    split at h
    · rw [next_inj] at h; exact .inl ⟨_, h.symm⟩
    · rename_i hd hh; rw [next_inj] at h; exact .inr (.inl ⟨hd, hh, h.symm⟩)

/-- A step waits, accepts a command, answers an illegal word, or goes on with the running command. -/
theorem step_cases {s t : State} (h : step s = .next t) :
    (s.Idle ∧ s.host = [] ∧ t = s) ∨
    (s.Idle ∧ ∃ w rest i, s.host = w :: rest ∧ decodeCommand w = .ok i ∧ exec i { s with host := rest } = .next t) ∨
    (s.Idle ∧ ∃ w rest e, s.host = w :: rest ∧ decodeCommand w = .error e ∧
      t = answerIllegal w { s with host := rest }) ∨
    (¬ s.Idle ∧ busyStep s = .next t) := by
  by_cases hi : s.Idle
  · rw [step_of_idle hi] at h
    cases hh : s.host with
    | nil => rw [commandStep_nil hh, next_inj] at h; exact .inl ⟨hi, rfl, h.symm⟩
    | cons w rest =>
      rw [commandStep_cons hh] at h
      cases hd : decodeCommand w with
      | ok i => rw [hd] at h; exact .inr (.inl ⟨hi, w, rest, i, rfl, hd, h⟩)
      | error e =>
        rw [hd] at h
        simp only [next_inj] at h
        exact .inr (.inr (.inl ⟨hi, w, rest, e, rfl, hd, h.symm⟩))
  · rw [step_of_running hi] at h
    exact .inr (.inr (.inr ⟨hi, h⟩))

/-- To show that every step keeps a property: acceptance of a word, a response, a release, the first states of the
commands, and a micro-step keep it. -/
theorem step_induct {P : State → Prop}
    (accept : ∀ u w rest arg, P u → u.Idle → u.host = w :: rest → P (State.accept arg { u with host := rest }))
    (respond : ∀ u st, P u → u.Idle → P (u.respond st none))
    (release : ∀ u h, P u → u.Idle → u.handle = some h → P ((u.release h).respond .ok none))
    (send : ∀ u rs, P u → u.Idle → u.fsm = .ready → P (u.beginSend rs))
    (backlight : ∀ u, P u → u.Idle → u.fsm = .ready → P u.beginBacklight)
    (init : ∀ u, P u → u.Idle → u.fsm = .unopened → P u.beginInit)
    (busy : ∀ u v, P u → ¬ u.Idle → busyStep u = .next v → P v)
    {s t : State} (hs : P s) (h : step s = .next t) : P t := by
  have run := fun n => runToRest_induct (P := P) (fun u v hu hr => busy u v hu (fun hi => hr (.inl hi))) n
  obtain ⟨_, _, rfl⟩ | ⟨hi, w, rest, i, hw, hd, he⟩ | ⟨hi, w, rest, e, hw, hd, rfl⟩ | ⟨hi, hb⟩ := step_cases h
  · exact hs
  · obtain ⟨_, arg, hc⟩ := exec_command_cases (decodeCommand_ok hd) he
    have ha := accept s w rest arg hs hi hw
    obtain ⟨st, rfl⟩ | ⟨hd, hh, rfl⟩ | ⟨hf, rs, hr⟩ | ⟨hf, hr⟩ | ⟨hf, hr⟩ := hc
    · exact respond _ st ha hi
    · exact release _ hd ha hi hh
    · exact run _ _ _ (send _ rs ha hi hf) hr
    · exact run _ _ _ (backlight _ ha hi hf) hr
    · exact run _ _ _ (init _ ha hi hf) hr
  · exact respond _ _ (accept s w rest _ hs hi hw) hi
  · exact busy _ _ hs hi hb

/-- Everything a micro-step can do. -/
theorem busyStep_cases {s t : State} (h : busyStep s = .next t) :
    (∃ path, s.pending = some (.openBus path) ∧ t = s.awaitOpen path) ∨
    (∃ hd a7, s.pending = some (.configAddr hd a7) ∧ t = s.awaitConfig hd a7) ∨
    (∃ hd a7 c p, s.pending = some (.write hd a7 c p) ∧ t = (s.awaitWrite hd a7 c p).continueCommand) ∨
    (s.pending = none ∧ selectFrame s = none ∧ t = s.endProgram) ∨
    (∃ hd f, s.pending = none ∧ selectFrame s = some f ∧ s.handle = some hd ∧
      (s.fsm = .initializing ∨ s.fsm = .ready) ∧
      t = ({ s with pending := some (.write hd s.addr7 f.control f.payload) }.awaitWrite hd s.addr7
        f.control f.payload).continueCommand) := by
  unfold busyStep at h
  split at h
  · rename_i path hp; rw [next_inj] at h; exact .inl ⟨path, hp, h.symm⟩
  · rename_i hd a7 hp; rw [next_inj] at h; exact .inr (.inl ⟨hd, a7, hp, h.symm⟩)
  · rename_i hd a7 c p hp; rw [next_inj] at h; exact .inr (.inr (.inl ⟨hd, a7, c, p, hp, h.symm⟩))
  · rename_i hp
    split at h
    · rename_i f hf
      obtain ⟨u, hu, ht⟩ := mapNext_eq_next.mp h
      obtain ⟨_, hfsm, hd, hh, rfl⟩ := transmit_eq_next.mp hu
      exact .inr (.inr (.inr (.inr ⟨hd, f, hp, hf, hh, hfsm, ht⟩)))
    · rename_i hf; rw [next_inj] at h; exact .inr (.inr (.inr (.inl ⟨hp, hf, h.symm⟩)))

end Sys2Proof.Machine
end

