-- ==== Sys2Proof/Laws/PerInstr.lean ====
section
/-! SUPPORT. One lemma per instruction: its word selects its row of spec/opcode_table.json. -/

namespace Sys2Proof.Laws.EncodesInItsRow

/-- The (mask, match) columns of the instruction's row (R62, R64). -/
def row : Instr → Word × Word
  | .init => (0xFFFF#16, 0x0100#16)
  | .sendi _ => (0xFF00#16, 0x0200#16)
  | .sendd _ => (0xFF00#16, 0x0300#16)
  | .bl _ => (0xFFFE#16, 0x0400#16)
  | .shut => (0xFFFF#16, 0x0500#16)
  | .wrIr _ => (0xFF00#16, 0x8000#16)
  | .wrDr _ => (0xFF00#16, 0x4000#16)

/-- The instruction's word, masked, is its row's match. -/
def Statement (i : Instr) : Prop := Word.selects (encode i) (row i).1 (row i).2 = true

theorem init : Statement .init := by unfold Statement; decide

theorem sendi (b : Byte) : Statement (.sendi b) := by
  unfold Statement row encode; revert b; decide

theorem sendd (b : Byte) : Statement (.sendd b) := by
  unfold Statement row encode; revert b; decide

theorem bl (on : Bool) : Statement (.bl on) := by unfold Statement; cases on <;> decide

theorem shut : Statement .shut := by unfold Statement; decide

theorem wrIr (p : Byte) : Statement (.wrIr p) := by
  unfold Statement row encode; revert p; decide

theorem wrDr (p : Byte) : Statement (.wrDr p) := by
  unfold Statement row encode; revert p; decide

end Sys2Proof.Laws.EncodesInItsRow
end

