-- ==== Sys2Proof/Laws/Program.lean ====
section
/-! SUPPORT. What a run over ROM_INIT does against answers for every entry that is left, and against fewer. -/

namespace Sys2Proof.Machine

/-- From entry `seqPc` on, with one answer for each entry left, a run writes those entries in order, reports each failure,
and ends in Ready with the response OK. -/
theorem runToRest_romInit : ∀ (n : Nat) (s : State) (h : Handle) (as rest : List WriteAnswer),
    s.src = .romInit → s.fsm = .initializing → s.pending = none → s.handle = some h →
    s.writeAnswers = as ++ rest → s.seqPc + (n + 1) = s.romInit.length → as.length = n + 1 →
    runToRest (n + 1) s = .next { s with
      fsm := .ready
      src := .none
      seqPc := s.romInit.length
      writeAnswers := rest
      suppress := s.suppress || anyFailed as
      aggFail := s.aggFail || anyFailed as
      hist := s.hist ++ transcript h s.addr7 s.variant s.suppress (s.romInit.drop s.seqPc) as ++ [.resp .ok none] }
  | n, s, h, as, rest, h1, h2, h3, h4, h5, h6, h7 => by
    cases s with
    | mk fsm handle addr7 variant suppress aggFail pc src opnd pending rs cfg hasStop rom host oa ca wa hist =>
    simp only at h1 h2 h3 h4 h5 h6
    subst h1 h2 h3 h4 h5
    obtain ⟨a, as, rfl⟩ : ∃ a t, as = a :: t := by cases as <;> simp at h7 ⊢
    have hlt : pc < rom.length := by omega
    have hd : rom.drop pc = rom[pc] :: rom.drop (pc + 1) := List.drop_eq_getElem_cons hlt
    rw [runToRest_succ (by simp [State.AtRest, State.Idle, State.blocked])]
    simp only [busyStep, selectFrame, List.getElem?_eq_getElem hlt, transmit, State.awaitWrite, completeWrite_eq,
      mapNext, bindNext, List.cons_append, true_or, if_true]
    cases n with
    | zero =>
      obtain rfl : as = [] := by simpa using h7
      have hl : pc + 1 = rom.length := by omega
      simp [State.continueCommand, programLength, hl, State.endProgram, State.respond, runToRest, hd, transcript,
        failSeverity, anyFailed]
    | succ n =>
      have hl : pc + 1 < rom.length := by omega
      simp only [State.continueCommand, programLength, Option.isSome_none, Bool.false_eq_true, if_false, hl, if_true]
      rw [runToRest_romInit n _ h as rest rfl rfl rfl rfl rfl (by simp only; omega) (by simpa using h7), hd]
      simp [transcript, failSeverity, anyFailed, Bool.or_assoc]

/-- From entry `seqPc` on, with fewer answers than entries left, a run writes one entry for each answer and stops with the
next one in flight. -/
theorem runToRest_romInit_waits : ∀ (as : List WriteAnswer) (n : Nat) (s : State) (h : Handle) (f : RomEntry),
    s.src = .romInit → s.fsm = .initializing → s.pending = none → s.handle = some h →
    s.writeAnswers = as → s.romInit[s.seqPc + as.length]? = some f → as.length < n →
    runToRest n s = .next { s with
      seqPc := s.seqPc + as.length
      pending := some (.write h s.addr7 f.control f.payload)
      writeAnswers := []
      suppress := s.suppress || anyFailed as
      aggFail := s.aggFail || anyFailed as
      hist := s.hist ++ transcript h s.addr7 s.variant s.suppress (s.romInit.drop s.seqPc) as }
  | as, 0, _, _, _, _, _, _, _, _, _, hn => absurd hn (Nat.not_lt_zero _)
  | as, n + 1, s, h, f, h1, h2, h3, h4, h5, h6, hn => by
    cases s with
    | mk fsm handle addr7 variant suppress aggFail pc src opnd pending rs cfg hasStop rom host oa ca wa hist =>
    simp only at h1 h2 h3 h4 h5 h6
    subst h1 h2 h3 h4 h5
    have hle := (List.getElem?_eq_some_iff.1 h6).1
    have hlt : pc < rom.length := by omega
    have hd : rom.drop pc = rom[pc] :: rom.drop (pc + 1) := List.drop_eq_getElem_cons hlt
    rw [runToRest_succ (by simp [State.AtRest, State.Idle, State.blocked])]
    cases wa with
    | nil =>
      simp only [List.length_nil, Nat.add_zero] at h6
      simp only [busyStep, selectFrame, h6, transmit, State.awaitWrite, mapNext, bindNext, true_or, if_true,
        State.continueCommand, Option.isSome_some]
      rw [runToRest_of_rest (.inr rfl)]
      cases hdr : rom.drop pc <;> simp [transcript, anyFailed]
    | cons a as =>
      have hl : pc + 1 < rom.length := by simp only [List.length_cons] at hle; omega
      simp only [busyStep, selectFrame, List.getElem?_eq_getElem hlt, transmit, State.awaitWrite, completeWrite_eq,
        mapNext, bindNext, true_or, if_true, State.continueCommand, programLength, Option.isSome_none,
        Bool.false_eq_true, if_false, hl]
      rw [runToRest_romInit_waits as n _ h f rfl rfl rfl rfl rfl
        (by simp only; rw [← h6]; congr 1; simp only [List.length_cons]; omega) (by simpa using hn), hd]
      simp [transcript, failSeverity, anyFailed, Bool.or_assoc, Nat.add_comm, Nat.add_left_comm]

end Sys2Proof.Machine
end

