-- ==== Sys2Proof/Tests/Slice0.lean ====
section
/-! SUPPORT. The model's own tests: each expected value is taken from the worked examples of the rules and from
95_test_vectors.md, or worked out by hand from the rule named. Then, for every statement with hypotheses, states and operands
that meet them together (test_witness_<statement>). -/

namespace Sys2Proof.Tests

open Sys2Proof Sys2Proof.Machine Host

/-! ### Small states -/

/-- The handle of the vectors. -/
def h0 : Handle := ⟨7⟩

/-- A platform error. -/
def e0 : OsError := ⟨5⟩

/-- A good answer to a write. -/
def ok2 : WriteAnswer := .count 2

/-- A state like the one after reset with definite inputs: `cfg.addr` 0xBC, variant 1, and a ROM of two entries (R101). -/
def fresh : State where
  fsm := .unopened
  handle := none
  addr7 := 0
  variant := .simpleLatch
  suppress := false
  aggFail := false
  seqPc := 0
  src := .none
  opnd := 0
  pending := none
  rs := .instr
  cfg := ⟨⟨"P"⟩, 0xBC, .addressableRegister⟩
  hasStop := false
  romInit := [⟨0x80, 0x2A⟩, ⟨0x80, 0x08⟩]
  host := []
  openAnswers := []
  configAnswers := []
  writeAnswers := []
  hist := []

/-- Ready with handle h0 at address 0x3C (95 V5). -/
def ready : State := { fresh with fsm := .ready, handle := some h0, addr7 := 0x3C }

/-- Initializing at entry `pc`, nothing in flight. -/
def initializing (pc : Nat) : State :=
  { ready with fsm := .initializing, src := .romInit, seqPc := pc }

/-- BL at entry `pc`, nothing in flight. -/
def backlight (pc : Nat) : State := { ready with src := .romBl, seqPc := pc, opnd := 1 }

/-- A SENDI 0x01 whose write is in flight. -/
def sending : State := { ready with src := .direct, opnd := 1, pending := some (.write h0 0x3C 0x80 0x01) }

/-- INIT waiting for `open`. -/
def opening : State := { fresh with fsm := .opening, src := .romInit, pending := some (.openBus ⟨"P"⟩) }

/-- INIT waiting for `configureAddress`. -/
def addressed : State :=
  { fresh with fsm := .addressed, handle := some h0, src := .romInit, pending := some (.configAddr h0 0) }

/-- What an outcome appended to the history of `fresh` or `ready`. -/
def events : Outcome State Fault Refusal → List Event
  | .next t => t.hist
  | _ => []

/-- The life-cycle state an outcome leaves. -/
def fsmOf : Outcome State Fault Refusal → Option Fsm
  | .next t => some t.fsm
  | _ => none

/-! ### Well-formedness and decoding (R62, R64, 95 V1, V2) -/

theorem test_frame_is_no_command : (Instr.wrIr 0x01).wellFormedAt .command = false := by decide

theorem test_data_frame_is_no_command : (Instr.wrDr 0x48).wellFormedAt .command = false := by decide

theorem test_command_is_no_frame : (Instr.sendi 0x01).wellFormedAt .frame = false := by decide

theorem test_decode_init : decodeAt .command 0b0000000100000000#16 = .ok .init := by decide

theorem test_decode_sendi : decodeAt .command 0b0000001010000000#16 = .ok (.sendi 0x80) := by decide

theorem test_decode_sendd : decodeAt .command 0b0000001101000000#16 = .ok (.sendd 0x40) := by decide

theorem test_decode_bl_on : decodeAt .command 0b0000010000000001#16 = .ok (.bl true) := by decide

theorem test_decode_bl_off : decodeAt .command 0b0000010000000000#16 = .ok (.bl false) := by decide

theorem test_decode_shut : decodeAt .command 0b0000010100000000#16 = .ok .shut := by decide

theorem test_decode_wr_ir : decodeAt .frame 0b1000000000000001#16 = .ok (.wrIr 0x01) := by decide

theorem test_decode_wr_dr : decodeAt .frame 0b0100000001001000#16 = .ok (.wrDr 0x48) := by decide

theorem test_illegal_words : [0x0101#16, 0x0402, 0x04FF, 0x0501, 0x0000, 0x0600, 0x8001, 0xFFFF].map decodeCommand =
    [.error (.initArgument 1), .error (.backlightReservedBits 2), .error (.backlightReservedBits 0xFF),
      .error (.shutArgument 1), .error (.illegalOpcode 0), .error (.illegalOpcode 6), .error (.illegalOpcode 0x80),
      .error (.illegalOpcode 0xFF)] := by decide

theorem test_raw_frames : [0x0000#16, 0xC055].map decodeFrame = [.error (.rawFrame 0), .error (.rawFrame 0xC0)] := by
  decide

theorem test_table_words : [decodeTableWord 16 0x0100, decodeTableWord 16 0x0401, decodeTableWord 16 0x8001,
    decodeTableWord 16 0x0600] = [some .init, some (.bl true), some (.wrIr 1), none] := by decide

theorem test_encode_writes_the_fields : [encode .init, encode (.sendi 0xFF), encode (.sendd 0x40), encode (.bl true),
    encode .shut, encode (.wrIr 0x80), encode (.wrDr 0x48)] =
    [0x0100#16, 0x02FF, 0x0340, 0x0401, 0x0500, 0x8080, 0x4048] := by decide

/-! ### Operands (95 V3, V4) -/

theorem test_address_mask : [0x00#8, 0x27, 0x3C, 0x7F, 0x80, 0xA7, 0xBC, 0xFF].map maskAddr =
    [0x00#7, 0x27, 0x3C, 0x7F, 0x00, 0x27, 0x3C, 0x7F] := by decide

theorem test_pack_ignores_the_other_signals :
    pack .instr .write true true 0xF = 0x80 ∧ pack .data .write true true 0xF = 0x40 := by decide

/-! ### One step of each instruction -/

/-- R101's worked example. -/
theorem test_init : events (exec .init { fresh with
      openAnswers := [.ok h0], configAnswers := [.ok], writeAnswers := [ok2, ok2] }) =
    [.opened ⟨"P"⟩ (.ok h0), .cfgAddr h0 0x3C .ok, .report .info ⟨.variantInfo, 0, 0x3C, .addressableRegister⟩,
      .write h0 0x3C 0x80 0x2A ok2, .write h0 0x3C 0x80 0x08 ok2, .resp .ok none] := by decide

/-- 95 V8: every write fails and INIT is Ready all the same. -/
theorem test_init_lost_writes : fsmOf (exec .init { fresh with
      openAnswers := [.ok h0], configAnswers := [.ok], writeAnswers := [.count 0, .err e0] }) = some .ready := by decide

/-- R84's corner case: a payload equal to a control constant. -/
theorem test_sendi : events (exec (.sendi 0x40) { ready with writeAnswers := [ok2] }) =
    [.write h0 0x3C 0x80 0x40 ok2, .resp .ok none] := by decide

/-- 95 V6: Unopened. -/
theorem test_sendi_not_ready : events (exec (.sendi 0x01) fresh) = [.resp .notReady none] := by decide

/-- 95 V5: a short count on a clear latch. -/
theorem test_sendd_short : events (exec (.sendd 0x41) { ready with writeAnswers := [.count 1] }) =
    [.write h0 0x3C 0x40 0x41 (.count 1), .report .error ⟨.txFail, 0x41, 0x3C, .simpleLatch⟩,
      .resp .transportError none] := by decide

/-- 95 V5: the latch is set already. -/
theorem test_sendd_latched : events (exec (.sendd 0x42) { ready with suppress := true, writeAnswers := [.err e0] }) =
    [.write h0 0x3C 0x40 0x42 (.err e0), .report .debug ⟨.txFail, 0x42, 0x3C, .simpleLatch⟩,
      .resp .transportError none] := by decide

/-- 95 V7. -/
theorem test_bl_off : framesOf (events (exec (.bl false) { ready with writeAnswers := List.replicate 6 ok2 })) =
    [⟨0x80, 0x2A⟩, ⟨0x80, 0x79⟩, ⟨0x80, 0x81⟩, ⟨0x80, 0x32⟩, ⟨0x80, 0x78⟩, ⟨0x80, 0x28⟩] := by decide

/-- 95 P3: answers 2, 2, 0, 2, 3, 2 with the latch set. -/
theorem test_bl_failures : txSeverities (events (exec (.bl true) { ready with
      suppress := true, writeAnswers := [ok2, ok2, .count 0, ok2, .count 3, ok2] })) = [.debug, .debug] := by decide

/-- 95 V9 with `HAS_STOP`. -/
theorem test_shut : events (exec .shut { ready with hasStop := true }) = [.stop h0, .close h0, .resp .ok none] := by decide

/-- 95 V9: Unopened. -/
theorem test_shut_unopened : fsmOf (exec .shut fresh) = some .unopened := by decide

/-- R64, R81. -/
theorem test_wr_ir : events (exec (.wrIr 0x01) { ready with writeAnswers := [ok2] }) =
    [.write h0 0x3C 0x80 0x01 ok2] := by decide

/-- R64, R82. -/
theorem test_wr_dr : events (exec (.wrDr 0x41) { ready with writeAnswers := [.count (-1)] }) =
    [.write h0 0x3C 0x40 0x41 (.count (-1)), .report .error ⟨.txFail, 0x41, 0x3C, .simpleLatch⟩] := by decide

/-! ### Placing and fetching -/

theorem test_fetch_runs_init : step (State.reset.withFetchWord 16 0x0100) = exec .init State.reset := by rfl

theorem test_fetch_runs_frame : step (State.reset.withFetchWord 16 0x4048) =
    exec (.wrDr 0x48) (State.reset.withFetchWord 16 0x4048) := by rfl

theorem test_illegal_word_in_closed : events (step { fresh with fsm := .closed, host := [0x0600#16] }) =
    [.resp .illegalCommand none] := by decide

/-! ### Witnesses: the hypotheses of the statements are met -/

theorem test_witness_EncodeThenDecodeGivesTheInstruction :
    Instr.init.wellFormedAt .command = true ∧ (Instr.wrDr 0xFF).wellFormedAt .frame = true := by decide

theorem test_witness_DecodedWordIsTheEncodedWord :
    decodeAt .command 0x0401 = .ok (.bl true) ∧ decodeAt .frame 0x80FF = .ok (.wrIr 0xFF) := by decide

theorem test_witness_CommandRowsAndFrameRowsAreDisjoint : decodeCommand 0x0280 = .ok (.sendi 0x80) := by decide

theorem test_witness_OperandTransformationsAreTheFourOfTheSpec :
    (ready.Idle ∧ ready.fsm = .ready ∧ ready.handle = some h0) ∧ decodeCommand 0x0401 = .ok (.bl true) ∧
    (let s := { ready with writeAnswers := List.replicate 3 ok2 };
      s.Idle ∧ s.fsm = .ready ∧ s.handle = some h0 ∧ blValueIndex ≤ s.writeAnswers.length) ∧
    (let s := { fresh with openAnswers := [.ok h0], configAnswers := [.ok] };
      s.Idle ∧ s.fsm = .unopened ∧ s.openAnswers = .ok h0 :: [] ∧ s.configAnswers = .ok :: []) := by decide

theorem test_witness_IdleCoreWaitsForACommand : ready.Idle ∧ ready.host = [] := by decide

theorem test_witness_StepRunsThePresentedCommand : let s := { ready with host := [0x0201#16] };
    s.Idle ∧ s.host = 0x0201#16 :: [] ∧ decodeCommand 0x0201#16 = .ok (.sendi 1) := by decide

theorem test_witness_StepRunsTheSelectedFrame : (initializing 0).pending = none ∧
    selectFrame (initializing 0) = some ⟨0x80, 0x2A⟩ ∧ decodeFrame (frameWord ⟨0x80, 0x2A⟩) = .ok (.wrIr 0x2A) := by decide

theorem test_witness_RawEntryIsTransmittedVerbatim :
    let s := { initializing 0 with romInit := [⟨0xC0, 0x55⟩, ⟨0x80, 0⟩], writeAnswers := [ok2] };
    s.pending = none ∧ s.src = .romInit ∧ s.fsm = .initializing ∧ s.handle = some h0 ∧
    s.romInit[s.seqPc]? = some ⟨0xC0, 0x55⟩ ∧ s.writeAnswers = [ok2] ∧ ok2.failed = false ∧
    s.seqPc + 1 < s.romInit.length := by decide

theorem test_witness_IllegalWordIsOnlyAnswered : let s := { fresh with host := [0x0402#16] };
    s.Idle ∧ s.host = 0x0402#16 :: [] ∧ decodeCommand 0x0402#16 = .error (.backlightReservedBits 2) := by decide

theorem test_witness_UnansweredPrimitiveHangs :
    opening.blocked = true ∧ addressed.blocked = true ∧ sending.blocked = true := by decide

theorem test_witness_SendInstructionWritesOneFrame : let s := { ready with writeAnswers := [.count 1] };
    s.Idle ∧ s.fsm = .ready ∧ s.handle = some h0 ∧ s.writeAnswers = .count 1 :: [] := by decide

theorem test_witness_SendDataWritesOneFrame : let s := { ready with writeAnswers := [ok2] };
    s.Idle ∧ s.fsm = .ready ∧ s.handle = some h0 ∧ s.writeAnswers = ok2 :: [] := by decide

theorem test_witness_SendsOutsideReadyAreRefused : fresh.Idle ∧ fresh.fsm ≠ .ready := by decide

theorem test_witness_UnansweredSendWaits :
    ready.Idle ∧ ready.fsm = .ready ∧ ready.handle = some h0 ∧ ready.writeAnswers = [] := by decide

theorem test_witness_LateAnswerEndsTheSend : let s := { sending with writeAnswers := [.err e0] };
    s.src = .direct ∧ s.aggFail = false ∧ s.pending = some (.write h0 0x3C 0x80 0x01) ∧
    s.writeAnswers = .err e0 :: [] := by decide

theorem test_witness_BacklightWritesSixFrames : let s := { ready with writeAnswers := List.replicate 7 ok2 };
    s.Idle ∧ s.fsm = .ready ∧ s.handle = some h0 ∧ s.writeAnswers = List.replicate 6 ok2 ++ [ok2] ∧
    (List.replicate 6 ok2).length = 6 := by decide

theorem test_witness_UnansweredBacklightWaits : let s := { ready with writeAnswers := List.replicate 5 ok2 };
    s.Idle ∧ s.fsm = .ready ∧ s.handle = some h0 ∧
    (blFrames true)[s.writeAnswers.length]? = some ⟨0x80, 0x28⟩ ∧ (blFrames true)[ready.writeAnswers.length]? =
      some ⟨0x80, 0x2A⟩ := by decide

theorem test_witness_BacklightStepAdvancesByOneEntry : ∀ pc ∈ [0, 5],
    ∃ f, (blFrames ((backlight pc).opnd.getLsbD 0))[(backlight pc).seqPc]? = some f ∧
    ∀ pending ∈ [none, some (.write h0 0x3C f.control f.payload)],
      let s := { backlight pc with pending := pending, writeAnswers := [.count 0] };
      (s.pending = none ∨ s.pending = some (.write h0 s.addr7 f.control f.payload)) ∧
      s.src = .romBl ∧ s.fsm = .ready ∧ s.handle = some h0 ∧ s.writeAnswers = .count 0 :: [] := by
  intro pc h
  simp only [List.mem_cons, List.not_mem_nil, or_false] at h
  rcases h with rfl | rfl <;> exact ⟨_, rfl, by decide⟩

theorem test_witness_BacklightOnAndOffDifferInOnePayload : let s := { ready with writeAnswers := List.replicate 6 ok2 };
    s.fsm = .ready ∧ ∃ t u, exec (.bl true) s = .next t ∧ exec (.bl false) s = .next u ∧ t.Idle ∧ u.Idle :=
  ⟨rfl, _, _, rfl, rfl, by decide, by decide⟩

theorem test_witness_InitWritesTheWholeProgram :
    let s := { fresh with openAnswers := [.ok h0], configAnswers := [.ok], writeAnswers := [ok2, .count 0, ok2] };
    s.Idle ∧ s.fsm = .unopened ∧ s.openAnswers = .ok h0 :: [] ∧ s.configAnswers = .ok :: [] ∧
    s.writeAnswers = [ok2, .count 0] ++ [ok2] ∧ [ok2, .count 0].length = s.romInit.length := by decide

theorem test_witness_InitStopsWhenOpenFails : let s := { fresh with openAnswers := [.err e0] };
    s.Idle ∧ s.fsm = .unopened ∧ s.openAnswers = .err e0 :: [] := by decide

theorem test_witness_InitStopsWhenAddressingFails :
    let s := { fresh with openAnswers := [.ok h0], configAnswers := [.err e0] };
    s.Idle ∧ s.fsm = .unopened ∧ s.openAnswers = .ok h0 :: [] ∧ s.configAnswers = .err e0 :: [] := by decide

theorem test_witness_InitOutsideUnopenedIsRefused : ready.Idle ∧ ready.fsm ≠ .unopened := by decide

theorem test_witness_UnansweredInitWaits : fresh.Idle ∧ fresh.fsm = .unopened ∧ fresh.openAnswers = [] ∧
    (let s := { fresh with openAnswers := [.ok h0] };
      s.Idle ∧ s.fsm = .unopened ∧ s.openAnswers = .ok h0 :: [] ∧ s.configAnswers = []) ∧
    (∀ as ∈ [[], [ok2]], ∃ f,
      let s := { fresh with openAnswers := [.ok h0], configAnswers := [.ok], writeAnswers := as };
      s.Idle ∧ s.fsm = .unopened ∧ s.openAnswers = .ok h0 :: [] ∧ s.configAnswers = .ok :: [] ∧
      s.romInit[s.writeAnswers.length]? = some f) := by
  refine ⟨by decide, rfl, rfl, by decide, ?_⟩
  intro as h
  simp only [List.mem_cons, List.not_mem_nil, or_false] at h
  rcases h with rfl | rfl <;> exact ⟨_, by decide, rfl, rfl, rfl, rfl⟩

theorem test_witness_OpeningAndAddressedTakeTheirAnswers :
    (let s := { opening with openAnswers := [.ok h0] };
      s.pending = some (.openBus ⟨"P"⟩) ∧ s.openAnswers = .ok h0 :: []) ∧
    (let s := { opening with openAnswers := [.err e0] };
      s.pending = some (.openBus ⟨"P"⟩) ∧ s.openAnswers = .err e0 :: []) ∧
    (let s := { addressed with configAnswers := [.ok] };
      s.pending = some (.configAddr h0 0) ∧ s.src = .romInit ∧ s.configAnswers = .ok :: [] ∧ s.romInit ≠ []) ∧
    (let s := { addressed with configAnswers := [.ok], romInit := [] };
      s.pending = some (.configAddr h0 0) ∧ s.src = .romInit ∧ s.configAnswers = .ok :: [] ∧ s.romInit = []) ∧
    (let s := { addressed with configAnswers := [.err e0] };
      s.pending = some (.configAddr h0 0) ∧ s.configAnswers = .err e0 :: []) := by decide

theorem test_witness_InitStepAdvancesByOneEntry : ∀ pc ∈ [0, 1],
    ∃ f, (initializing pc).romInit[(initializing pc).seqPc]? = some f ∧
    ∀ pending ∈ [none, some (.write h0 0x3C f.control f.payload)],
      let s := { initializing pc with pending := pending, writeAnswers := [.count 0] };
      (s.pending = none ∨ s.pending = some (.write h0 s.addr7 f.control f.payload)) ∧
      s.src = .romInit ∧ s.fsm = .initializing ∧ s.handle = some h0 ∧ s.writeAnswers = .count 0 :: [] := by
  intro pc h
  simp only [List.mem_cons, List.not_mem_nil, or_false] at h
  rcases h with rfl | rfl <;> exact ⟨_, rfl, by decide⟩

theorem test_witness_InitFramesAreAPrefixOfTheProgram :
    let s := { fresh with openAnswers := [.ok h0], configAnswers := [.ok], writeAnswers := [ok2, ok2] };
    ∃ t, exec .init s = .next t ∧ s.fsm = .unopened ∧ t.fsm = .ready := ⟨_, rfl, rfl, rfl⟩

theorem test_witness_ShutReleasesTheHandle : ready.Idle ∧ ready.handle = some h0 := by decide

theorem test_witness_ShutWithoutHandleDoesNothing : fresh.Idle ∧ fresh.handle = none := by decide

theorem test_witness_SecondShutIssuesNothing : ready.Idle ∧ ready.handle ≠ none := by decide

theorem test_witness_FrameIsOneAtomicWrite :
    (let s := { ready with writeAnswers := [.count 3] };
      s.pending = none ∧ s.handle = some h0 ∧ (s.fsm = .initializing ∨ s.fsm = .ready) ∧ s.writeAnswers = .count 3 :: []) ∧
    (let s := { initializing 0 with writeAnswers := [ok2] };
      s.pending = none ∧ s.handle = some h0 ∧ (s.fsm = .initializing ∨ s.fsm = .ready) ∧ s.writeAnswers = ok2 :: []) := by
  decide

theorem test_witness_UnansweredFrameWaits : ready.pending = none ∧ ready.handle = some h0 ∧
    (ready.fsm = .initializing ∨ ready.fsm = .ready) ∧ ready.writeAnswers = [] := by decide

theorem test_witness_FrameOutsideItsPreconditionStops : sending.pending ≠ none ∧
    (fresh.pending = none ∧ fresh.handle = none) ∧
    (let s := { ready with fsm := .addressed };
      s.pending = none ∧ s.handle ≠ none ∧ s.fsm ≠ .initializing ∧ s.fsm ≠ .ready) := by decide

theorem test_witness_CommandWhileBusyIsRefused :
    Instr.shut.wellFormedAt .command = true ∧ ¬ sending.Idle ∧ ¬ (backlight 0).Idle := by decide

theorem test_witness_WriteFailsUnlessExactlyTwoBytes : let s := { ready with writeAnswers := [ok2] };
    s.pending = none ∧ s.handle = some h0 ∧ s.fsm = .ready ∧ s.writeAnswers = ok2 :: [] ∧ s.suppress = false ∧
    ∃ t, exec (.wrDr 0) s = .next t := ⟨rfl, rfl, rfl, rfl, rfl, _, rfl⟩

theorem test_witness_EachCommandWritesExactlyItsFrames : let s := { ready with writeAnswers := [ok2] };
    (Instr.sendi 1).wellFormedAt .command = true ∧ ∃ t, exec (.sendi 1) s = .next t ∧ t.Idle ∧
      t.hist.getLast? = some (.resp .ok none) := ⟨rfl, _, rfl, by decide, rfl⟩

/-- Ready is a state of the life cycle. -/
theorem test_ready_lifeCycle (ws : List Word) : LifeCycle { ready with host := ws } := by
  constructor <;> simp [ready, fresh, State.Idle]

/-- Unopened is a state of the life cycle. -/
theorem test_fresh_lifeCycle (ws : List Word) : LifeCycle { fresh with host := ws } := by
  constructor <;> simp [fresh, State.Idle]

theorem test_witness_OneResponsePerCommand : ∃ t, LifeCycle { ready with host := [0x0500#16] } ∧
    step { ready with host := [0x0500#16] } = .next t ∧ ([0x0500#16] : List Word) ≠ [] :=
  ⟨_, test_ready_lifeCycle _, rfl, by decide⟩

theorem test_witness_CommandRunsToResponseOrWaits :
    ∃ t, (Instr.bl true).wellFormedAt .command = true ∧ exec (.bl true) ready = .next t := ⟨_, rfl, rfl⟩

theorem test_witness_OneStepEqualsMicroSteps :
    let s := { fresh with
      host := [0x0100#16], openAnswers := [.ok h0], configAnswers := [.ok], writeAnswers := [ok2] };
    s.Idle ∧ s.host = [0x0100#16] ∧
      (∃ u, step s = .next u ∧ u.pending = some (.write h0 0x3C 0x80 0x08)) ∧
      ∃ t, step { s with
        openAnswers := s.openAnswers ++ []
        configAnswers := s.configAnswers ++ []
        writeAnswers := s.writeAnswers ++ [.count 0] } = .next t :=
  ⟨by decide, rfl, ⟨_, rfl, rfl⟩, ⟨_, rfl⟩⟩

theorem test_witness_StepKeepsTheInvariant : LifeCycle { ready with host := [0x0201#16] } ∧
    ∃ t, step { ready with host := [0x0201#16] } = .next t := ⟨test_ready_lifeCycle _, _, rfl⟩

theorem test_witness_InvariantStatesAlwaysStep : LifeCycle { ready with host := [] } := test_ready_lifeCycle _

theorem test_witness_HandleIsReleasedExactlyOnce :
    let s := { ready with host := [0x0500#16], hist := [.opened ⟨"P"⟩ (.ok h0)] };
    LifeCycle s ∧ HandleBalance s ∧ ∃ t, step s = .next t := by
  refine ⟨?_, ⟨rfl, by decide, by decide⟩, _, rfl⟩
  constructor <;> simp [ready, fresh, State.Idle]

theorem test_witness_EveryWriteGoesToTheLatchedAddress :
    let s := { ready with host := [0x0201#16], hist := [.write h0 0x3C 0x80 0x2A ok2] };
    LifeCycle s ∧ AddressHeld s ∧ ∃ t, step s = .next t := by
  refine ⟨?_, ?_, _, rfl⟩
  · constructor <;> simp [ready, fresh, State.Idle]
  · constructor <;> simp [ready, fresh, Event.writeAddr?]

theorem test_witness_OnlyInitWritesAddressAndVariant : ∃ t, step { fresh with host := [0x0100#16] } = .next t ∧
    t.addr7 = 0x3C := ⟨_, rfl, by decide⟩

theorem test_witness_LifeCycleNeverMovesBackward :
    (∃ t, LifeCycle { ready with host := [0x0500#16] } ∧ ready.fsm = .ready ∧
      step { ready with host := [0x0500#16] } = .next t ∧ t.fsm ≠ .ready) ∧
    (∃ t, LifeCycle { fresh with host := [0x0100#16] } ∧ fresh.fsm = .unopened ∧
      step { fresh with host := [0x0100#16] } = .next t ∧ t.fsm ≠ .unopened) :=
  ⟨⟨_, test_ready_lifeCycle _, rfl, rfl, by decide⟩, ⟨_, test_fresh_lifeCycle _, rfl, rfl, by decide⟩⟩

theorem test_witness_LatchIsSetOnceAndDowngradesReports :
    ∃ t, step { ready with host := [0x0341#16], writeAnswers := [.count 1] } = .next t ∧ t.suppress = true :=
  ⟨_, rfl, rfl⟩

theorem test_witness_RomsAreNeverWritten : (backlight 0).src = .romBl ∧ (backlight 0).seqPc ≠ blValueIndex ∧
    (backlight 3).src = .romBl ∧ (backlight 3).seqPc = blValueIndex ∧ (∃ e, blProgram[(backlight 3).seqPc]? = some e) ∧
    (initializing 1).src = .romInit ∧ ∃ t, step (backlight 0) = .next t :=
  ⟨rfl, by decide, rfl, rfl, ⟨_, rfl⟩, rfl, _, rfl⟩

theorem test_witness_BusyCoreTakesNoCommand :
    ∃ t, ¬ sending.Idle ∧ step { sending with host := [0x0100#16] } = .next t := ⟨_, by decide, rfl⟩

theorem test_witness_CleanEndIsUnopenedOrClosed :
    LifeCycle { fresh with fsm := .closed } ∧ State.CleanEnd { fresh with fsm := .closed } := by
  refine ⟨?_, rfl, by decide, rfl⟩
  constructor <;> simp [fresh, State.Idle]

theorem test_witness_FlagsNeverSteer :
    let s := { ready with suppress := true, hist := [.report .debug ⟨.txFail, 1, 0x3C, .simpleLatch⟩] };
    let t := { ready with aggFail := true, hist := [.report .error ⟨.txFail, 1, 0x3C, .simpleLatch⟩] };
    s ≠ t ∧ s.eraseFlags = t.eraseFlags := by decide

theorem test_witness_VariantReachesOnlyTheReports :
    let s := { ready with hist := [.report .info ⟨.variantInfo, 0, 0x3C, .simpleLatch⟩] };
    let t := { ready with
      variant := .addressableRegister
      cfg := { ready.cfg with variant := .simpleLatch }
      hist := [.report .info ⟨.variantInfo, 0, 0x3C, .addressableRegister⟩] };
    s ≠ t ∧ s.eraseVariant = t.eraseVariant := by decide

theorem test_witness_UnspecifiedRegistersAreNeverRead : fresh.Idle ∧ fresh.fsm ≠ .ready := by decide

end Sys2Proof.Tests
end

section
/-! SUPPORT. Noninterference over an erasure `e` of the state: an update or a step by which an observer of `e` never
learns what `e` hides (`Function.FactorsThrough`), and how such updates and steps compose. -/

namespace Sys2Proof.Machine

open Host (Outcome)
open Function (FactorsThrough)

/-- What an observer of `e` sees after the update `f` depends only on what it saw before. -/
def KeepsHidden (e f : State → State) : Prop := FactorsThrough (fun s => e (f s)) e

/-- What an observer of `e` sees of the outcome of `f` depends only on what it saw before. -/
def NeverSteers (e : State → State) (f : State → Outcome State Fault Refusal) : Prop :=
  FactorsThrough (fun s => mapNext e (f s)) e

section Erasure

variable {e : State → State}

/-- An observation that branches on what `e` leaves as it is, and in each branch tells nothing of what `e` hides. -/
theorem factorsThrough_branch {α β : Type} {f : State → β} {r : State → α} (hr : ∀ s, r (e s) = r s)
    (h : ∀ x, ∃ g, FactorsThrough g e ∧ ∀ s, r s = x → f s = g s) : FactorsThrough f e := by
  intro s t hst
  have hread : r s = r t := by rw [← hr s, ← hr t, hst]
  obtain ⟨g, hg, heq⟩ := h (r t)
  rw [heq s hread, heq t rfl]
  exact hg hst

/-- Two outcomes that look the same are next states that look the same, or the same stop. -/
theorem mapNext_eq_cases {o p : Outcome State Fault Refusal} (h : mapNext e o = mapNext e p) :
    (∃ u v, o = .next u ∧ p = .next v ∧ e u = e v) ∨ o = p := by
  cases o <;> cases p <;> simp_all [mapNext]

theorem mapNext_eq_bindNext (g : State → State) (o : Outcome State Fault Refusal) :
    mapNext g o = bindNext (fun s => .next (g s)) o := by cases o <;> rfl

namespace KeepsHidden

theorem id : KeepsHidden e (fun s => s) := fun _ _ h => h

/-- An update that the observer sees as an update of what it saw. -/
theorem of_seen {f : State → State} (g : State → State) (h : ∀ s, e (f s) = g (e s)) : KeepsHidden e f :=
  fun s t hst => by simp only [h, hst]

/-- An update that can as well be made to what the observer sees. -/
theorem commuting (f : State → State) (h : ∀ s, e (f s) = f (e s)) : KeepsHidden e f := of_seen f h

theorem comp {f g : State → State} (hg : KeepsHidden e g) (hf : KeepsHidden e f) :
    KeepsHidden e (fun s => g (f s)) := fun _ _ h => hg (hf h)

/-- An update that branches on what is seen, and in each branch keeps the hidden part hidden. -/
theorem branch {α : Type} {f : State → State} {r : State → α} (hr : ∀ s, r (e s) = r s)
    (h : ∀ x, ∃ g, KeepsHidden e g ∧ ∀ s, r s = x → f s = g s) : KeepsHidden e f :=
  factorsThrough_branch hr fun x =>
    let ⟨_, hg, heq⟩ := h x
    ⟨_, hg, fun s hs => congrArg e (heq s hs)⟩

theorem ite {c : State → Prop} [DecidablePred c] {f g : State → State} (hc : ∀ s, c (e s) = c s)
    (hf : KeepsHidden e f) (hg : KeepsHidden e g) : KeepsHidden e (fun s => if c s then f s else g s) :=
  branch hc fun p => by
    by_cases hp : p
    · exact ⟨f, hf, fun s hs => if_pos (hs ▸ hp)⟩
    · exact ⟨g, hg, fun s hs => if_neg (hs ▸ hp)⟩

end KeepsHidden

namespace NeverSteers

theorem next {f : State → State} (hf : KeepsHidden e f) : NeverSteers e (fun s => .next (f s)) :=
  fun _ _ h => congrArg Outcome.next (hf h)

theorem stop {o : Outcome State Fault Refusal} : NeverSteers e (fun _ => o) := fun _ _ _ => rfl

theorem comp {f : State → State} {g : State → Outcome State Fault Refusal} (hg : NeverSteers e g)
    (hf : KeepsHidden e f) : NeverSteers e (fun s => g (f s)) := fun _ _ h => hg (hf h)

/-- A step that branches on what is seen, and in each branch is steered by nothing hidden. -/
theorem branch {α : Type} {f : State → Outcome State Fault Refusal} {r : State → α} (hr : ∀ s, r (e s) = r s)
    (h : ∀ x, ∃ g, NeverSteers e g ∧ ∀ s, r s = x → f s = g s) : NeverSteers e f :=
  factorsThrough_branch hr fun x =>
    let ⟨_, hg, heq⟩ := h x
    ⟨_, hg, fun s hs => congrArg (Machine.mapNext e) (heq s hs)⟩

theorem ite {c : State → Prop} [DecidablePred c] {f g : State → Outcome State Fault Refusal}
    (hc : ∀ s, c (e s) = c s) (hf : NeverSteers e f) (hg : NeverSteers e g) :
    NeverSteers e (fun s => if c s then f s else g s) :=
  branch hc fun p => by
    by_cases hp : p
    · exact ⟨f, hf, fun s hs => if_pos (hs ▸ hp)⟩
    · exact ⟨g, hg, fun s hs => if_neg (hs ▸ hp)⟩

theorem bindNext {f g : State → Outcome State Fault Refusal} (hg : NeverSteers e g) (hf : NeverSteers e f) :
    NeverSteers e (fun s => bindNext g (f s)) := by
  intro s t hst
  obtain ⟨u, v, hu, hv, huv⟩ | hsame := mapNext_eq_cases (hf hst)
  · simp only [hu, hv]
    exact hg huv
  · simp only [hsame]

theorem mapNext {g : State → State} {f : State → Outcome State Fault Refusal} (hg : KeepsHidden e g)
    (hf : NeverSteers e f) : NeverSteers e (fun s => mapNext g (f s)) := by
  simpa only [mapNext_eq_bindNext g] using (next hg).bindNext hf

/-- The run of a command is steered by nothing by which its micro-steps and the test for rest are not steered. -/
theorem runToRest (hrest : ∀ s, State.AtRest (e s) = State.AtRest s) (hbusy : NeverSteers e busyStep) :
    ∀ n, NeverSteers e (runToRest n)
  | 0 => next .id
  | n + 1 => .ite hrest (next .id) ((runToRest hrest hbusy n).bindNext hbusy)

end NeverSteers

end Erasure

end Sys2Proof.Machine
end

section
/-! SUPPORT. The two flags steer nothing (10_state.md R33): what an observer that sees neither the flags nor the
severities and statuses they choose makes of each operation, from the updates of the history up to the step. -/

namespace Sys2Proof.Machine

open Host (Outcome)

/-! ### What the observer sees of the updates that write the history or a flag -/

theorem eraseFlags_emit (ev : Event) (s : State) : (s.emit ev).eraseFlags = s.eraseFlags.emit ev.eraseFlags := by
  simp [State.emit, State.eraseFlags]

theorem eraseFlags_respond (st : Status) (info : Option OsError) (s : State) :
    (s.respond st info).eraseFlags = s.eraseFlags.respond (if st = .transportError then .ok else st) info := by
  simp [State.respond, State.eraseFlags, Event.eraseFlags]

/-- The observer cannot tell which status the aggregate chose. -/
theorem eraseFlags_respond_transportStatus (s : State) :
    (s.respond (transportStatus s.aggFail) none).eraseFlags = s.eraseFlags.respond .ok none := by
  rw [eraseFlags_respond]
  cases s.aggFail <;> rfl

/-- The observer can tell neither which severity the latch chose nor that both flags are set. -/
theorem eraseFlags_raise_transportError (p : Byte) (s : State) :
    (s.raise (.transportError p)).eraseFlags = s.eraseFlags.report .debug .txFail p := by
  cases h : s.suppress <;>
    simp [State.raise, failSeverity, h, State.report, State.emit, State.eraseFlags, Event.eraseFlags]

theorem eraseFlags_busClose (h : Handle) (s : State) : (s.busClose h).eraseFlags = s.eraseFlags.busClose h := by
  simp [State.busClose, State.emit, State.eraseFlags, Event.eraseFlags]

theorem eraseFlags_release (h : Handle) (s : State) : (s.release h).eraseFlags = s.eraseFlags.release h := by
  cases hs : s.hasStop <;> simp [release_eq, hs, State.eraseFlags, Event.eraseFlags]

theorem eraseFlags_report_info (kind : ReportKind) (payload : Byte) (s : State) :
    (s.report .info kind payload).eraseFlags = s.eraseFlags.report .info kind payload := by
  simp [State.report, State.emit, State.eraseFlags, Event.eraseFlags]

/-! ### The updates of a running command -/

theorem emit_keepsFlagsHidden (ev : Event) : KeepsHidden State.eraseFlags (State.emit ev) :=
  .of_seen _ (eraseFlags_emit ev)

theorem respond_keepsFlagsHidden (st : Status) (info : Option OsError) :
    KeepsHidden State.eraseFlags (State.respond st info) :=
  .of_seen _ (eraseFlags_respond st info)

theorem setFsm_keepsFlagsHidden (fsm : Fsm) : KeepsHidden State.eraseFlags (fun s => { s with fsm := fsm }) :=
  .commuting _ fun _ => rfl

/-- Each exception's entry: only TransportError touches a flag. -/
theorem raise_keepsFlagsHidden (x : Cause) : KeepsHidden State.eraseFlags (State.raise x) := by
  cases x with
  | transportError p => exact .of_seen _ (eraseFlags_raise_transportError p)
  | deviceOpenFailed e => exact (respond_keepsFlagsHidden _ _).comp (setFsm_keepsFlagsHidden .closed)
  | addressingFailed h e =>
    exact (respond_keepsFlagsHidden _ _).comp <|
      (setFsm_keepsFlagsHidden .closed).comp (.commuting _ (eraseFlags_busClose h))
  | notReady => exact respond_keepsFlagsHidden _ _
  | badState => exact respond_keepsFlagsHidden _ _
  | illegalCommand => exact respond_keepsFlagsHidden _ _

theorem endProgram_keepsFlagsHidden : KeepsHidden State.eraseFlags State.endProgram := by
  have haggregate := KeepsHidden.of_seen _ eraseFlags_respond_transportStatus
  refine .branch (r := State.src) (fun _ => rfl) fun
    | .none => ⟨_, .id, fun s hs => ?_⟩
    | .romInit =>
      ⟨_, (respond_keepsFlagsHidden .ok none).comp (setFsm_keepsFlagsHidden .ready), fun s hs => ?_⟩
    | .direct | .romBl => ⟨_, haggregate, fun s hs => ?_⟩
  all_goals simp only [State.endProgram, hs]

theorem continueCommand_keepsFlagsHidden : KeepsHidden State.eraseFlags State.continueCommand := by
  have hnext : KeepsHidden State.eraseFlags (fun s => { s with seqPc := s.seqPc + 1 }) :=
    .commuting _ fun _ => rfl
  have hentry := KeepsHidden.ite (e := State.eraseFlags) (c := fun s => s.seqPc + 1 < programLength s)
    (fun _ => rfl) hnext (endProgram_keepsFlagsHidden.comp hnext)
  refine .ite (c := fun s => s.pending.isSome = true) (fun _ => rfl) .id ?_
  refine .branch (r := State.src) (fun _ => rfl) fun
    | .none => ⟨_, .id, fun s hs => ?_⟩
    | .direct => ⟨_, endProgram_keepsFlagsHidden, fun s hs => ?_⟩
    | .romInit | .romBl => ⟨_, hentry, fun s hs => ?_⟩
  all_goals simp only [hs]

/-! ### The primitives and their answers -/

/-- An answer is recorded: the primitive is no longer in flight, and the history has its event. -/
theorem answered_keepsFlagsHidden (ev : Event) :
    KeepsHidden State.eraseFlags (fun s => { s with pending := none }.emit ev) :=
  (emit_keepsFlagsHidden ev).comp (.commuting (fun s => { s with pending := none }) fun _ => rfl)

theorem completeWrite_keepsFlagsHidden (h : Handle) (a7 : Addr7) (c p : Byte) (a : WriteAnswer) :
    KeepsHidden State.eraseFlags (State.completeWrite h a7 c p a) := by
  have hanswered := answered_keepsFlagsHidden (.write h a7 c p a)
  unfold State.completeWrite
  cases a.failed with
  | false => exact hanswered
  | true => exact (raise_keepsFlagsHidden (.transportError p)).comp hanswered

theorem awaitWrite_keepsFlagsHidden (h : Handle) (a7 : Addr7) (c p : Byte) :
    KeepsHidden State.eraseFlags (State.awaitWrite h a7 c p) := by
  refine .branch (r := State.writeAnswers) (fun _ => rfl) fun answers => ?_
  cases answers with
  | nil => exact ⟨_, .id, fun s hs => by simp only [State.awaitWrite, hs]⟩
  | cons a rest =>
    exact ⟨_, (completeWrite_keepsFlagsHidden h a7 c p a).comp
      (.commuting (fun s => { s with writeAnswers := rest }) fun _ => rfl),
      fun s hs => by simp only [State.awaitWrite, hs]⟩

theorem completeOpen_keepsFlagsHidden (path : Path) (a : OpenAnswer) :
    KeepsHidden State.eraseFlags (State.completeOpen path a) := by
  have hanswered := answered_keepsFlagsHidden (.opened path a)
  cases a with
  | ok h =>
    have hheld : KeepsHidden State.eraseFlags
        (fun s => { s with handle := some h, fsm := .addressed, pending := some (.configAddr h s.addr7) }) :=
      .commuting _ fun _ => rfl
    exact hheld.comp hanswered
  | err e => exact (raise_keepsFlagsHidden _).comp hanswered

theorem awaitOpen_keepsFlagsHidden (path : Path) : KeepsHidden State.eraseFlags (State.awaitOpen path) := by
  refine .branch (r := State.openAnswers) (fun _ => rfl) fun answers => ?_
  cases answers with
  | nil => exact ⟨_, .id, fun s hs => by simp only [State.awaitOpen, hs]⟩
  | cons a rest =>
    exact ⟨_, (completeOpen_keepsFlagsHidden path a).comp
      (.commuting (fun s => { s with openAnswers := rest }) fun _ => rfl),
      fun s hs => by simp only [State.awaitOpen, hs]⟩

theorem completeConfig_keepsFlagsHidden (h : Handle) (a7 : Addr7) (a : ConfigAnswer) :
    KeepsHidden State.eraseFlags (State.completeConfig h a7 a) := by
  have hanswered := answered_keepsFlagsHidden (.cfgAddr h a7 a)
  cases a with
  | ok =>
    have hreported := (KeepsHidden.commuting _ (eraseFlags_report_info .variantInfo 0)).comp hanswered
    have hstarted := (KeepsHidden.commuting (e := State.eraseFlags)
      (fun s => { s with fsm := .initializing, seqPc := 0 }) fun _ => rfl).comp hreported
    exact .ite (c := fun s => 0 < programLength s) (fun _ => rfl) hstarted (endProgram_keepsFlagsHidden.comp hstarted)
  | err e => exact (raise_keepsFlagsHidden _).comp hanswered

theorem awaitConfig_keepsFlagsHidden (h : Handle) (a7 : Addr7) :
    KeepsHidden State.eraseFlags (State.awaitConfig h a7) := by
  refine .branch (r := State.configAnswers) (fun _ => rfl) fun answers => ?_
  cases answers with
  | nil => exact ⟨_, .id, fun s hs => by simp only [State.awaitConfig, hs]⟩
  | cons a rest =>
    exact ⟨_, (completeConfig_keepsFlagsHidden h a7 a).comp
      (.commuting (fun s => { s with configAnswers := rest }) fun _ => rfl),
      fun s hs => by simp only [State.awaitConfig, hs]⟩

/-! ### The steps -/

theorem transmit_neverSteersByFlags (c p : Byte) : NeverSteers State.eraseFlags (transmit c p) := by
  have hissued (h : Handle) : KeepsHidden State.eraseFlags
      (fun s => { s with pending := some (.write h s.addr7 c p) }.awaitWrite h s.addr7 c p) :=
    .branch (r := State.addr7) (fun _ => rfl) fun a7 =>
      ⟨_, (awaitWrite_keepsFlagsHidden h a7 c p).comp
        (.commuting (fun s => { s with pending := some (.write h a7 c p) }) fun _ => rfl),
        fun s hs => by simp only [hs]⟩
  refine .branch (r := fun s => (s.pending, s.handle)) (fun _ => rfl) fun
    | (some _, _) => ⟨fun _ => .refused .primitiveInFlight, .stop, fun s hs => ?_⟩
    | (none, none) => ⟨fun _ => .fault .transmitWithoutHandle, .stop, fun s hs => ?_⟩
    | (none, some h) =>
      ⟨_, .ite (c := fun s => s.fsm = .initializing ∨ s.fsm = .ready) (fun _ => rfl) (.next (hissued h))
        (.stop (o := .fault .transmitOutsideReady)), fun s hs => ?_⟩
  all_goals
    obtain ⟨hpending, hhandle⟩ := Prod.mk.inj hs
    simp only [transmit, hpending, hhandle]

theorem busyStep_neverSteersByFlags : NeverSteers State.eraseFlags busyStep := by
  have hcontinue := continueCommand_keepsFlagsHidden
  refine .branch (r := fun s => (s.pending, selectFrame s)) (fun _ => rfl) fun
    | (some (.openBus path), _) => ⟨_, .next (awaitOpen_keepsFlagsHidden path), fun s hs => ?_⟩
    | (some (.configAddr h a7), _) => ⟨_, .next (awaitConfig_keepsFlagsHidden h a7), fun s hs => ?_⟩
    | (some (.write h a7 c p), _) =>
      ⟨_, .next (hcontinue.comp (awaitWrite_keepsFlagsHidden h a7 c p)), fun s hs => ?_⟩
    | (none, some f) => ⟨_, (transmit_neverSteersByFlags f.control f.payload).mapNext hcontinue, fun s hs => ?_⟩
    | (none, none) => ⟨_, .next endProgram_keepsFlagsHidden, fun s hs => ?_⟩
  all_goals
    obtain ⟨hpending, hframe⟩ := Prod.mk.inj hs
    simp only [busyStep, hpending, hframe]

theorem runToRest_neverSteersByFlags (n : Nat) : NeverSteers State.eraseFlags (runToRest n) :=
  .runToRest (e := State.eraseFlags) (fun _ => rfl) busyStep_neverSteersByFlags n

/-- A command that neither flag steers once it is accepted is steered by neither when it is presented. -/
theorem asCommand_neverSteersByFlags (arg : Byte) {body : State → Outcome State Fault Refusal}
    (hbody : NeverSteers State.eraseFlags body) : NeverSteers State.eraseFlags (asCommand arg body) :=
  .ite (fun _ => rfl) (hbody.comp (.commuting (State.accept arg) fun _ => rfl)) .stop

/-- A command that runs in one life-cycle state and is refused in every other one. -/
theorem guarded_neverSteersByFlags (state : Fsm) (x : Cause) {body : State → Outcome State Fault Refusal}
    (hbody : NeverSteers State.eraseFlags body) :
    NeverSteers State.eraseFlags (fun s => if s.fsm = state then body s else .next (s.raise x)) :=
  .ite (fun _ => rfl) hbody (.next (raise_keepsFlagsHidden x))

theorem sendByte_neverSteersByFlags (rs : RegSelect) : NeverSteers State.eraseFlags (sendByte rs) :=
  guarded_neverSteersByFlags .ready .notReady <|
    (runToRest_neverSteersByFlags 1).comp (.commuting (State.beginSend rs) fun _ => rfl)

theorem setBacklight_neverSteersByFlags : NeverSteers State.eraseFlags setBacklight :=
  guarded_neverSteersByFlags .ready .notReady <|
    (runToRest_neverSteersByFlags blProgram.length).comp (.commuting State.beginBacklight fun _ => rfl)

theorem bringUp_neverSteersByFlags : NeverSteers State.eraseFlags bringUp :=
  guarded_neverSteersByFlags .unopened .badState <|
    .branch (r := State.romInit) (fun _ => rfl) fun rom =>
      ⟨_, (runToRest_neverSteersByFlags (rom.length + 2)).comp (.commuting State.beginInit fun _ => rfl),
        fun s hs => by rw [hs]⟩

theorem shutdown_neverSteersByFlags : NeverSteers State.eraseFlags shutdown := by
  have hrespond := respond_keepsFlagsHidden .ok none
  refine .branch (r := State.handle) (fun _ => rfl) fun handle => ?_
  cases handle with
  | none => exact ⟨_, .next hrespond, fun s hs => by simp only [shutdown, hs]⟩
  | some h =>
    exact ⟨_, .next (hrespond.comp (.commuting _ (eraseFlags_release h))), fun s hs => by simp only [shutdown, hs]⟩

theorem exec_neverSteersByFlags (i : Instr) : NeverSteers State.eraseFlags (exec i) := by
  cases i with
  | init => exact asCommand_neverSteersByFlags 0 bringUp_neverSteersByFlags
  | sendi b => exact asCommand_neverSteersByFlags b (sendByte_neverSteersByFlags .instr)
  | sendd b => exact asCommand_neverSteersByFlags b (sendByte_neverSteersByFlags .data)
  | bl on => exact asCommand_neverSteersByFlags (blOperand on) setBacklight_neverSteersByFlags
  | shut => exact asCommand_neverSteersByFlags 0 shutdown_neverSteersByFlags
  | wrIr p => exact transmit_neverSteersByFlags ctrlInstr p
  | wrDr p => exact transmit_neverSteersByFlags ctrlData p

theorem answerIllegal_keepsFlagsHidden (w : Word) : KeepsHidden State.eraseFlags (answerIllegal w) :=
  (raise_keepsFlagsHidden .illegalCommand).comp (.commuting (State.accept (Word.low w)) fun _ => rfl)

theorem commandStep_neverSteersByFlags : NeverSteers State.eraseFlags commandStep := by
  refine .branch (r := State.host) (fun _ => rfl) fun words => ?_
  cases words with
  | nil => exact ⟨_, .next .id, fun s hs => commandStep_nil hs⟩
  | cons w rest =>
    have htaken : KeepsHidden State.eraseFlags (fun s => { s with host := rest }) :=
      .commuting _ fun _ => rfl
    cases hd : decodeCommand w with
    | ok i => exact ⟨_, (exec_neverSteersByFlags i).comp htaken, fun s hs => by simp only [commandStep_cons hs, hd]⟩
    | error _ =>
      exact ⟨_, .next ((answerIllegal_keepsFlagsHidden w).comp htaken),
        fun s hs => by simp only [commandStep_cons hs, hd]⟩

theorem runningStep_neverSteersByFlags : NeverSteers State.eraseFlags runningStep := by
  simpa only [funext runningStep_eq] using busyStep_neverSteersByFlags

theorem step_neverSteersByFlags : NeverSteers State.eraseFlags step :=
  .ite (fun _ => rfl) commandStep_neverSteersByFlags runningStep_neverSteersByFlags

/-- Settles O58: the step factors through the erasure of the flags, as each of its operations does. -/
theorem flagsNeverSteer : Obligations.FlagsNeverSteer := fun _ _ hst => step_neverSteersByFlags hst

end Sys2Proof.Machine
end

section
/-! SUPPORT. One response per command (10_state.md R23): every operation of a running command either adds one response and
leaves CORE idle, or adds none and leaves MUX selecting. -/

namespace Sys2Proof.Machine

/-- The number of responses in the history. -/
def State.responses (s : State) : Nat := s.hist.countP Event.isResp

/-- From `s` to `t` the running command ended, with one response, or it still runs, with none. -/
def EndsOrRuns (s t : State) : Prop :=
  (t.Idle ∧ t.responses = s.responses + 1) ∨ (t.src ≠ .none ∧ t.responses = s.responses)

@[simp] theorem State.responses_respond (st : Status) (info : Option OsError) (s : State) :
    (s.respond st info).responses = s.responses + 1 := by simp [State.responses, Event.isResp]

theorem State.responses_release (h : Handle) (s : State) : (s.release h).responses = s.responses := by
  rw [release_eq]
  cases hs : s.hasStop <;> simp [State.responses, Event.isResp]

theorem State.responses_configured (h : Handle) (a7 : Addr7) (rest : List ConfigAnswer) (s : State) :
    (configured h a7 rest s).responses = s.responses := by simp [configured, State.responses, Event.isResp]

theorem EndsOrRuns.responses_eq {s t : State} (h : EndsOrRuns s t) :
    t.responses = s.responses + if t.Idle then 1 else 0 := by
  obtain ⟨hidle, hcount⟩ | ⟨hsrc, hcount⟩ := h
  · rw [if_pos hidle, hcount]
  · rw [if_neg fun hidle => hsrc hidle.1, hcount]; rfl

/-- What follows operations that add no response. -/
theorem EndsOrRuns.of_responses_eq {s u t : State} (h : EndsOrRuns u t) (hsu : u.responses = s.responses) :
    EndsOrRuns s t := by
  unfold EndsOrRuns at *
  rwa [← hsu]

theorem endProgram_endsOrRuns {s : State} (hsrc : s.src ≠ .none) (hpending : s.pending = none) :
    EndsOrRuns s s.endProgram := by
  obtain ⟨hnone, _⟩ | ⟨_, heq⟩ | ⟨_, heq⟩ := endProgram_cases s
  · exact absurd hnone hsrc
  · rw [heq]; exact .inl ⟨⟨rfl, hpending⟩, State.responses_respond ..⟩
  · rw [heq]; exact .inl ⟨⟨rfl, hpending⟩, State.responses_respond ..⟩

theorem continueCommand_endsOrRuns {s : State} (hsrc : s.src ≠ .none) : EndsOrRuns s s.continueCommand := by
  obtain ⟨_, heq⟩ | ⟨hpending, _, heq⟩ | ⟨_, _, _, heq⟩ | ⟨hpending, _, _, heq⟩ := continueCommand_cases s
  · rw [heq]; exact .inr ⟨hsrc, rfl⟩
  · rw [heq]; exact endProgram_endsOrRuns hsrc hpending
  · rw [heq]; exact .inr ⟨hsrc, rfl⟩
  · rw [heq]; exact endProgram_endsOrRuns (s := { s with seqPc := s.seqPc + 1 }) hsrc hpending

theorem awaitWrite_src (h : Handle) (a7 : Addr7) (c p : Byte) (s : State) : (s.awaitWrite h a7 c p).src = s.src := by
  obtain ⟨_, heq⟩ | ⟨a, rest, _, heq⟩ := awaitWrite_cases h a7 c p s
  · rw [heq]
  · rw [heq, completeWrite_eq]

theorem awaitWrite_responses (h : Handle) (a7 : Addr7) (c p : Byte) (s : State) :
    (s.awaitWrite h a7 c p).responses = s.responses := by
  obtain ⟨_, heq⟩ | ⟨a, rest, _, heq⟩ := awaitWrite_cases h a7 c p s
  · rw [heq]
  · rw [heq, completeWrite_eq]
    cases ha : a.failed <;> simp [State.responses, Event.isResp]

/-- A transmission and what follows it. -/
theorem awaitWrite_continueCommand_endsOrRuns (h : Handle) (a7 : Addr7) (c p : Byte) {s : State}
    (hsrc : s.src ≠ .none) : EndsOrRuns s (s.awaitWrite h a7 c p).continueCommand :=
  (continueCommand_endsOrRuns (by rwa [awaitWrite_src])).of_responses_eq (awaitWrite_responses h a7 c p s)

theorem awaitOpen_endsOrRuns (path : Path) {s : State} (hsrc : s.src ≠ .none) : EndsOrRuns s (s.awaitOpen path) := by
  obtain ⟨_, heq⟩ | ⟨_, _, _, heq⟩ | ⟨_, _, _, heq⟩ := awaitOpen_cases path s
  · rw [heq]; exact .inr ⟨hsrc, rfl⟩
  · rw [heq]; exact .inr ⟨hsrc, by simp [State.responses, Event.isResp]⟩
  · rw [heq]; exact .inl ⟨⟨rfl, rfl⟩, by simp [State.responses, Event.isResp]⟩

theorem awaitConfig_endsOrRuns (h : Handle) (a7 : Addr7) {s : State} (hsrc : s.src ≠ .none) :
    EndsOrRuns s (s.awaitConfig h a7) := by
  obtain ⟨_, heq⟩ | ⟨rest, _, heq⟩ | ⟨_, _, _, heq⟩ := awaitConfig_cases h a7 s
  · rw [heq]; exact .inr ⟨hsrc, rfl⟩
  · have hcount := State.responses_configured h a7 rest s
    rw [heq]
    split
    · exact .inr ⟨hsrc, hcount⟩
    · exact (endProgram_endsOrRuns (s := configured h a7 rest s) hsrc rfl).of_responses_eq hcount
  · rw [heq]; exact .inl ⟨⟨rfl, rfl⟩, by simp [State.responses, Event.isResp]⟩

/-- A micro-step of a command whose source MUX selects. -/
theorem busyStep_endsOrRuns {s t : State} (hsrc : s.src ≠ .none) (h : busyStep s = .next t) : EndsOrRuns s t := by
  obtain ⟨path, _, rfl⟩ | ⟨hd, a7, _, rfl⟩ | ⟨hd, a7, c, p, _, rfl⟩ | ⟨hpending, _, rfl⟩ | ⟨hd, f, _, _, _, _, rfl⟩ :=
    busyStep_cases h
  · exact awaitOpen_endsOrRuns path hsrc
  · exact awaitConfig_endsOrRuns hd a7 hsrc
  · exact awaitWrite_continueCommand_endsOrRuns hd a7 c p hsrc
  · exact endProgram_endsOrRuns hsrc hpending
  · exact awaitWrite_continueCommand_endsOrRuns (s := { s with pending := some _ }) hd s.addr7 f.control f.payload hsrc

/-- Once a command has ended its run stops, so no second response is added. -/
theorem runToRest_endsOrRuns {s t : State} (n : Nat) (hsrc : s.src ≠ .none) (h : runToRest n s = .next t) :
    EndsOrRuns s t := by
  refine runToRest_induct (P := EndsOrRuns s) (fun u v hu hrest hv => ?_) n s t (.inr ⟨hsrc, rfl⟩) h
  obtain ⟨hidle, _⟩ | ⟨husrc, hcount⟩ := hu
  · exact absurd (.inl hidle) hrest
  · exact (busyStep_endsOrRuns husrc hv).of_responses_eq hcount

/-- A refusal, a SHUT and an illegal word end with the response they give. -/
theorem respond_endsOrRuns {s : State} (st : Status) (info : Option OsError) (hpending : s.pending = none) :
    EndsOrRuns s (s.respond st info) := .inl ⟨⟨rfl, hpending⟩, State.responses_respond ..⟩

theorem exec_command_endsOrRuns {i : Instr} {s t : State} (hi : i.port = .command) (h : exec i s = .next t) :
    EndsOrRuns s t := by
  obtain ⟨⟨_, hpending⟩, arg, hcases⟩ := exec_command_cases hi h
  obtain ⟨st, rfl⟩ | ⟨hd, _, rfl⟩ | ⟨_, rs, hrun⟩ | ⟨_, hrun⟩ | ⟨_, hrun⟩ := hcases
  · exact respond_endsOrRuns (s := s.accept arg) st none hpending
  · have hreleased := State.responses_release hd (s.accept arg)
    exact (respond_endsOrRuns .ok none (by rwa [release_eq])).of_responses_eq hreleased
  · exact runToRest_endsOrRuns (s := (s.accept arg).beginSend rs) 1 nofun hrun
  · exact runToRest_endsOrRuns (s := (s.accept arg).beginBacklight) 6 nofun hrun
  · exact runToRest_endsOrRuns (s := (s.accept arg).beginInit) _ nofun hrun

/-- While a command runs, MUX selects its source: INIT's while a primitive of INIT is in flight, and for a write the one
that gave its pair. -/
theorem LifeCycle.src_ne_none {s : State} (hs : LifeCycle s) (hbusy : ¬ s.Idle) : s.src ≠ .none := by
  intro hsrc
  match hp : s.pending with
  | none => exact hbusy ⟨hsrc, hp⟩
  | some (.openBus path) =>
    have hinit := hs.init_source.mpr (.inl (hs.open_in_flight.mpr ⟨path, hp⟩))
    rw [hsrc] at hinit; cases hinit
  | some (.configAddr h a7) =>
    have hinit := hs.init_source.mpr (.inr (.inl (hs.config_in_flight.mpr ⟨h, a7, hp⟩)))
    rw [hsrc] at hinit; cases hinit
  | some (.write h a7 c p) =>
    obtain ⟨_, _, hframe⟩ := hs.write_arguments h a7 c p hp
    simp [selectFrame, hsrc] at hframe

/-- Settles O44, by the cases of a step: a command from its first state on, an illegal word, or a micro-step. -/
theorem oneResponsePerCommand : Obligations.OneResponsePerCommand := by
  intro s t hs hstep hword
  suffices h : EndsOrRuns s t from h.responses_eq
  obtain ⟨hidle, hhost, _⟩ | ⟨_, w, rest, i, _, hdecode, hexec⟩ | ⟨⟨_, hpending⟩, w, rest, _, _, _, rfl⟩ |
    ⟨hbusy, hmicro⟩ := step_cases hstep
  · exact absurd hhost (hword hidle)
  · exact exec_command_endsOrRuns (s := { s with host := rest }) (decodeCommand_ok hdecode) hexec
  · exact respond_endsOrRuns (s := State.accept (Word.low w) { s with host := rest }) .illegalCommand none hpending
  · exact busyStep_endsOrRuns (hs.src_ne_none hbusy) hmicro

end Sys2Proof.Machine
end

section
/-! SUPPORT. ENC's control byte (40_encoder.md R80): one equation per register select. -/

namespace Sys2Proof.Machine

@[simp] theorem pack_instr (rw : Direction) (en bl : Bool) (nib : BitVec 4) : pack .instr rw en bl nib = ctrlInstr :=
  rfl

@[simp] theorem pack_data (rw : Direction) (en bl : Bool) (nib : BitVec 4) : pack .data rw en bl nib = ctrlData :=
  rfl

/-- Settles O8: the two equations of `pack`, at the control bytes' values. -/
theorem packDependsOnRegisterSelectOnly : Obligations.PackDependsOnRegisterSelectOnly := by
  intro rw en bl nib
  exact ⟨pack_instr rw en bl nib, pack_data rw en bl nib⟩

end Sys2Proof.Machine
end

section
/-! SUPPORT. The two decoders and the encoder agree (30_encoding.md R61 to R64, R71), from what each decoder makes of a
word given as its two bytes. -/

namespace Sys2Proof

open Machine

theorem decodeCommand_encode {i : Instr} (hi : i.port = .command) : decodeCommand (encode i) = .ok i := by
  cases i with
  | init | shut => simp [encode, decodeCommand_ofBytes]
  | sendi b | sendd b => simp [encode, decodeCommand_ofBytes]
  | bl on => cases on <;> simp [encode, decodeCommand_ofBytes]
  | wrIr p | wrDr p => cases hi

theorem decodeFrame_encode {i : Instr} (hi : i.port = .frame) : decodeFrame (encode i) = .ok i := by
  cases i with
  | wrIr p | wrDr p => simp [encode, decodeFrame_ofBytes]
  | init | sendi b | sendd b | bl on | shut => cases hi

/-- Each row of the command table is the words of one instruction. -/
theorem encode_of_decodeCommand {w : Word} {i : Instr} (h : decodeCommand w = .ok i) : encode i = w := by
  rw [← Word.ofBytes_high_low w, decodeCommand_ofBytes] at h
  rw [← Word.ofBytes_high_low w]
  generalize Word.high w = op, Word.low w = arg at h
  split at h
  next hrow => cases h; rw [hrow.1, hrow.2]; rfl
  split at h
  next hrow => cases h; rw [hrow]; rfl
  split at h
  next hrow => cases h; rw [hrow]; rfl
  split at h
  next hrow =>
    obtain ⟨rfl, rfl | rfl⟩ := hrow <;> cases h <;> rfl
  split at h
  next hrow => cases h; rw [hrow.1, hrow.2]; rfl
  next => cases h

theorem encode_of_decodeFrame {w : Word} {i : Instr} (h : decodeFrame w = .ok i) : encode i = w ∧ i.port = .frame := by
  rw [← Word.ofBytes_high_low w, decodeFrame_ofBytes] at h
  rw [← Word.ofBytes_high_low w]
  split at h
  next hrow => cases h; rw [hrow]; exact ⟨rfl, rfl⟩
  split at h
  next hrow => cases h; rw [hrow]; exact ⟨rfl, rfl⟩
  next => cases h

theorem wellFormedAt_iff {p : Port} {i : Instr} : i.wellFormedAt p = true ↔ i.port = p := beq_iff_eq

/-- Settles O2: at each port, the instructions it carries. -/
theorem encodeThenDecodeGivesTheInstruction : Obligations.EncodeThenDecodeGivesTheInstruction := by
  intro p i hi
  cases p with
  | command => exact decodeCommand_encode (wellFormedAt_iff.mp hi)
  | frame => exact decodeFrame_encode (wellFormedAt_iff.mp hi)

/-- Settles O3: at each port, the rows its decoder has. -/
theorem decodedWordIsTheEncodedWord : Obligations.DecodedWordIsTheEncodedWord := by
  intro p w i h
  rw [wellFormedAt_iff]
  cases p with
  | command => exact ⟨encode_of_decodeCommand h, decodeCommand_ok h⟩
  | frame => exact encode_of_decodeFrame h

/-- Settles O5: a word of both would be the word of a command and of a frame, and the high bytes of those differ. -/
theorem commandRowsAndFrameRowsAreDisjoint : Obligations.CommandRowsAndFrameRowsAreDisjoint := by
  intro w i j hi hj
  have hcommand := decodeCommand_ok hi
  obtain ⟨hframeWord, hframe⟩ := encode_of_decodeFrame hj
  have hbytes := congrArg Word.high ((encode_of_decodeCommand hi).trans hframeWord.symm)
  cases i <;> cases hcommand <;> cases j <;> cases hframe <;> simp [encode] at hbytes

/-- Settles O6: the frame decoder on a word given as its two bytes. -/
theorem frameKindIsTheControlByte : Obligations.FrameKindIsTheControlByte := decodeFrame_ofBytes

/-- A command word is refused exactly if it is in none of the five rows. -/
theorem decodeCommand_error_iff (op arg : Byte) : (∃ e, decodeCommand (Word.ofBytes op arg) = .error e) ↔
    ¬ ((op = 0x01#8 ∧ arg = 0) ∨ op = 0x02#8 ∨ op = 0x03#8 ∨ (op = 0x04#8 ∧ (arg = 0 ∨ arg = 1)) ∨
      (op = 0x05#8 ∧ arg = 0)) := by
  rw [decodeCommand_ofBytes]
  split_ifs with h1 h2 h3 h4 h5 <;> simp only [exists_false, Except.error.injEq, exists_eq', *] <;> simp

/-- Settles O4: the complement of the five rows, in numbers. -/
theorem illegalCommandWordsAreThoseListed : Obligations.IllegalCommandWordsAreThoseListed := by
  intro w
  have hrows := decodeCommand_error_iff (Word.high w) (Word.low w)
  rw [Word.ofBytes_high_low] at hrows
  rw [hrows]
  generalize Word.high w = op, Word.low w = arg
  simp only [← BitVec.toNat_inj, ne_eq, BitVec.toNat_ofNat, BitVec.ofNat_eq_ofNat, Nat.reducePow, Nat.reduceMod]
  omega

/-- Settles O1: the decoders evaluated at each word. -/
theorem specWordsDecode : Obligations.SpecWordsDecode := by
  unfold Obligations.SpecWordsDecode
  decide

end Sys2Proof
end

section
/-! SUPPORT. The codes of the spec's tables and the values of reset. -/

namespace Sys2Proof.Machine

/-- Settles O9: the tables read off, and each left-over code excluded constructor by constructor. -/
theorem codesAreThoseOfTheTables : Obligations.CodesAreThoseOfTheTables := by
  have hfsm (f : Fsm) : f.code ≠ 6 ∧ f.code ≠ 7 := by cases f <;> decide
  have hstatus (st : Status) : st.code ≠ 7 := by cases st <;> decide
  exact ⟨rfl, hfsm, rfl, rfl, hstatus, rfl, rfl, rfl, rfl, rfl⟩

/-- Settles O10: each field of the record of reset. -/
theorem resetIsIdleUnopenedUnsuppressed : Obligations.ResetIsIdleUnopenedUnsuppressed :=
  ⟨rfl, rfl, rfl, rfl, rfl, rfl, rfl, rfl⟩

end Sys2Proof.Machine
end

section
/-! SUPPORT. A step of CORE: what it runs, idle and busy, and that it never refuses (10_state.md R20, R22). -/

namespace Sys2Proof.Machine

open Host (Outcome)

/-! ### A command as the run from its first state -/

/-- The first state of a command at an idle CORE: refused or ended with its response, or about to be run. -/
def commandStart (i : Instr) (s : State) : State :=
  match i with
  | .init => if s.fsm = .unopened then (s.accept 0).beginInit else (s.accept 0).respond .badState none
  | .sendi b => if s.fsm = .ready then (s.accept b).beginSend .instr else (s.accept b).respond .notReady none
  | .sendd b => if s.fsm = .ready then (s.accept b).beginSend .data else (s.accept b).respond .notReady none
  | .bl on =>
    if s.fsm = .ready then (s.accept (blOperand on)).beginBacklight
    else (s.accept (blOperand on)).respond .notReady none
  | .shut =>
    match s.handle with
    | none => (s.accept 0).respond .ok none
    | some h => ((s.accept 0).release h).respond .ok none
  | .wrIr _ | .wrDr _ => s

/-- How many micro-steps a command may take. -/
def commandFuel (i : Instr) (s : State) : Nat :=
  match i with
  | .init => s.romInit.length + 2
  | .sendi _ | .sendd _ => 1
  | .bl _ => 6
  | .shut | .wrIr _ | .wrDr _ => 0

/-- A body that runs in one life-cycle state and responds at once in every other is a run in both. -/
theorem guarded_eq_runToRest {c : Prop} [Decidable c] (n : Nat) (u v : State) (hv : v.AtRest) :
    (if c then runToRest n u else .next v) = runToRest n (if c then u else v) := by
  split
  · rfl
  · rw [runToRest_of_rest hv]

theorem asCommand_of_idle {s : State} (hs : s.Idle) (arg : Byte) (body : State → Outcome State Fault Refusal) :
    asCommand arg body s = body (s.accept arg) := if_pos hs

theorem asCommand_of_busy {s : State} (hs : ¬ s.Idle) (arg : Byte) (body : State → Outcome State Fault Refusal) :
    asCommand arg body s = .refused .commandWhileBusy := if_neg hs

/-- Whatever a command does, it is the run from its first state. -/
theorem exec_of_idle {i : Instr} {s : State} (hi : i.port = .command) (hs : s.Idle) :
    exec i s = runToRest (commandFuel i s) (commandStart i s) := by
  have hended (arg : Byte) (st : Status) : ((s.accept arg).respond st none).AtRest := .inl ⟨rfl, hs.2⟩
  cases i with
  | init => exact (asCommand_of_idle hs _ _).trans (guarded_eq_runToRest _ _ _ (hended 0 .badState))
  | sendi b => exact (asCommand_of_idle hs _ _).trans (guarded_eq_runToRest 1 _ _ (hended b .notReady))
  | sendd b => exact (asCommand_of_idle hs _ _).trans (guarded_eq_runToRest 1 _ _ (hended b .notReady))
  | bl on => exact (asCommand_of_idle hs _ _).trans (guarded_eq_runToRest 6 _ _ (hended (blOperand on) .notReady))
  | shut =>
    refine (asCommand_of_idle hs _ _).trans ?_
    simp only [shutdown, commandFuel, commandStart, State.accept_handle]
    cases s.handle <;> rfl
  | wrIr p | wrDr p => cases hi

/-- A command forced in while one runs. -/
theorem exec_of_busy {i : Instr} {s : State} (hi : i.port = .command) (hs : ¬ s.Idle) :
    exec i s = .refused .commandWhileBusy := by
  cases i with
  | init | sendi b | sendd b | bl on | shut => exact asCommand_of_busy hs _ _
  | wrIr p | wrDr p => cases hi

/-- Settles O41: none of the five gets past the test for an idle CORE. -/
theorem commandWhileBusyIsRefused : Obligations.CommandWhileBusyIsRefused :=
  fun _ _ hi hs => exec_of_busy (wellFormedAt_iff.mp hi) hs

/-! ### What a step runs -/

theorem step_of_no_word {s : State} (hs : s.Idle) (hhost : s.host = []) : step s = .next s := by
  rw [step_of_idle hs, commandStep_nil hhost]

/-- Settles O11: reset is idle and HOST presents no word. -/
theorem idleCoreWaitsForACommand : Obligations.IdleCoreWaitsForACommand :=
  ⟨fun _ hs hhost => step_of_no_word hs hhost, step_of_no_word ⟨rfl, rfl⟩ rfl⟩

/-- Settles O12: the branch of an idle CORE with a word that decodes. -/
theorem stepRunsThePresentedCommand : Obligations.StepRunsThePresentedCommand := by
  intro s w rest i hs hhost hdecode
  rw [step_of_idle hs, commandStep_cons hhost, hdecode]

theorem step_of_illegal {s : State} {w : Word} {rest : List Word} {e : DecodeError} (hs : s.Idle)
    (hhost : s.host = w :: rest) (hdecode : decodeCommand w = .error e) :
    step s = .next (answerIllegal w { s with host := rest }) := by
  rw [step_of_idle hs, commandStep_cons hhost, hdecode]

/-- Settles O15: acceptance and the response, MUX being on NONE already. -/
theorem illegalWordIsOnlyAnswered : Obligations.IllegalWordIsOnlyAnswered := by
  intro s w rest e hs hhost hdecode
  rw [step_of_illegal hs hhost hdecode]
  simp [answerIllegal, State.raise, State.respond, State.accept, hs.1]

/-- A state whose MUX selects a pair is not idle. -/
theorem not_idle_of_selectFrame {s : State} {f : RomEntry} (hframe : selectFrame s = some f) : ¬ s.Idle := by
  rintro ⟨hsrc, _⟩
  simp [selectFrame, hsrc] at hframe

theorem not_idle_of_pending {s : State} {r : Request} (hpending : s.pending = some r) : ¬ s.Idle := by
  rintro ⟨_, hnone⟩
  simp [hnone] at hpending

theorem busyStep_frame {s : State} {f : RomEntry} (hpending : s.pending = none) (hframe : selectFrame s = some f) :
    busyStep s = frameStep f s := by
  simp only [busyStep, hpending, hframe, frameStep_eq]

/-- Settles O13: the frame step is by definition the row's meaning and the continuation. -/
theorem stepRunsTheSelectedFrame : Obligations.StepRunsTheSelectedFrame := by
  intro s f i hpending hframe hdecode
  rw [step_of_running (not_idle_of_selectFrame hframe), busyStep_frame hpending hframe, frameStep, hdecode]

/-! ### Waiting for PLATFORM -/

theorem awaitOpen_nil (path : Path) {s : State} (h : s.openAnswers = []) : s.awaitOpen path = s := by
  simp only [State.awaitOpen, h]

theorem awaitConfig_nil (hd : Handle) (a7 : Addr7) {s : State} (h : s.configAnswers = []) : s.awaitConfig hd a7 = s := by
  simp only [State.awaitConfig, h]

theorem awaitWrite_nil (hd : Handle) (a7 : Addr7) (c p : Byte) {s : State} (h : s.writeAnswers = []) :
    s.awaitWrite hd a7 c p = s := by
  simp only [State.awaitWrite, h]

theorem continueCommand_of_pending {s : State} {r : Request} (h : s.pending = some r) : s.continueCommand = s := by
  simp [State.continueCommand, h]

theorem step_of_blocked {s : State} (hs : s.blocked = true) : step s = .next s := by
  match hp : s.pending with
  | none => simp [State.blocked, hp] at hs
  | some (.openBus path) =>
    have hnone : s.openAnswers = [] := by simpa [State.blocked, hp] using hs
    rw [step_of_running (not_idle_of_pending hp)]
    simp only [busyStep, hp, awaitOpen_nil path hnone]
  | some (.configAddr h a7) =>
    have hnone : s.configAnswers = [] := by simpa [State.blocked, hp] using hs
    rw [step_of_running (not_idle_of_pending hp)]
    simp only [busyStep, hp, awaitConfig_nil h a7 hnone]
  | some (.write h a7 c p) =>
    have hnone : s.writeAnswers = [] := by simpa [State.blocked, hp] using hs
    rw [step_of_running (not_idle_of_pending hp)]
    simp only [busyStep, hp, awaitWrite_nil h a7 c p hnone, continueCommand_of_pending hp]

/-- The machine's run, one step at a time. -/
theorem run_succ {s u : State} (n : Nat) (h : step s = .next u) :
    Host.Core.run Sys2Proof.core (n + 1) s = Host.Core.run Sys2Proof.core n u := by
  have hcore : Sys2Proof.core.step s = .next u := h
  simp only [Host.Core.run, hcore]

/-- Settles O16, by induction on the number of steps. -/
theorem unansweredPrimitiveHangs : Obligations.UnansweredPrimitiveHangs := by
  intro s n hs
  induction n with
  | zero => rfl
  | succ n ih => rw [run_succ n (step_of_blocked hs), ih]

/-! ### No refusals -/

theorem runToRest_not_refused (r : Refusal) : ∀ (n : Nat) (s : State), runToRest n s ≠ .refused r
  | 0, _ => nofun
  | n + 1, s => by
    intro h
    rw [runToRest] at h
    split at h
    · cases h
    cases hb : busyStep s with
    | next u => rw [hb] at h; exact runToRest_not_refused r n u h
    | fault x => rw [hb] at h; cases h
    | refused x => exact busyStep_not_refused s x hb

/-- Settles O17: an idle CORE runs a command or answers, a busy one takes a micro-step. -/
theorem stepNeverRefuses : Obligations.StepNeverRefuses := by
  intro s r h
  by_cases hs : s.Idle
  · cases hhost : s.host with
    | nil => rw [step_of_no_word hs hhost] at h; cases h
    | cons w rest =>
      cases hdecode : decodeCommand w with
      | ok i =>
        rw [stepRunsThePresentedCommand s w rest i hs hhost hdecode,
          exec_of_idle (s := { s with host := rest }) (decodeCommand_ok hdecode) hs] at h
        exact runToRest_not_refused r _ _ h
      | error e => rw [step_of_illegal hs hhost hdecode] at h; cases h
  · rw [step_of_running hs] at h
    exact busyStep_not_refused s r h

end Sys2Proof.Machine
end

section
/-! SUPPORT. One transmission (40_encoder.md R81, R82): what an answered and an unanswered write leave, and where a frame
stops. -/

namespace Sys2Proof.Machine

/-- The state once PLATFORM has answered `a` to the write of `f`, with the answers `as` left. -/
def State.written (h : Handle) (f : RomEntry) (a : WriteAnswer) (as : List WriteAnswer) (s : State) : State :=
  { s with
    pending := none
    suppress := s.suppress || a.failed
    aggFail := s.aggFail || a.failed
    writeAnswers := as
    hist := s.hist ++ transcript h s.addr7 s.variant s.suppress [f] [a] }

/-- The state with the write of `f` in flight. -/
def State.issued (h : Handle) (f : RomEntry) (s : State) : State :=
  { s with pending := some (.write h s.addr7 f.control f.payload) }

theorem transcript_single (h : Handle) (a7 : Addr7) (v : Variant) (suppress : Bool) (f : RomEntry) (a : WriteAnswer) :
    transcript h a7 v suppress [f] [a] = .write h a7 f.control f.payload a ::
      if a.failed then [.report (failSeverity suppress) ⟨.txFail, f.payload, a7, v⟩] else [] := by
  simp [transcript, failSeverity]

theorem failed_eq_false_iff {a : WriteAnswer} : a.failed = false ↔ a = .count 2 := by
  cases a <;> simp [WriteAnswer.failed, writeLen]

theorem transportStatus_failed (a : WriteAnswer) :
    transportStatus a.failed = if a = .count 2 then .ok else .transportError := by
  simp only [transportStatus, ← failed_eq_false_iff]
  cases a.failed <;> rfl

theorem awaitWrite_cons {s : State} {a : WriteAnswer} {as : List WriteAnswer} (h : Handle) (f : RomEntry)
    (hanswers : s.writeAnswers = a :: as) :
    s.awaitWrite h s.addr7 f.control f.payload = s.written h f a as := by
  simp only [State.awaitWrite, hanswers, completeWrite_eq, State.written, transcript_single]

section Transmit

variable {c p : Byte} {s : State} {h : Handle}

/-- Within R81's precondition a transmission issues its write and takes the answer, if it is there. -/
theorem transmit_eq (hpending : s.pending = none) (hhandle : s.handle = some h)
    (hfsm : s.fsm = .initializing ∨ s.fsm = .ready) :
    transmit c p s = .next ((s.issued h ⟨c, p⟩).awaitWrite h s.addr7 c p) := by
  simp only [transmit, hpending, hhandle, hfsm, if_true, State.issued]

theorem transmit_answered {a : WriteAnswer} {as : List WriteAnswer} (hpending : s.pending = none)
    (hhandle : s.handle = some h) (hfsm : s.fsm = .initializing ∨ s.fsm = .ready) (hanswers : s.writeAnswers = a :: as) :
    transmit c p s = .next (s.written h ⟨c, p⟩ a as) := by
  rw [transmit_eq hpending hhandle hfsm]
  exact congrArg _ (awaitWrite_cons (s := s.issued h ⟨c, p⟩) h ⟨c, p⟩ hanswers)

theorem transmit_waits (hpending : s.pending = none) (hhandle : s.handle = some h)
    (hfsm : s.fsm = .initializing ∨ s.fsm = .ready) (hanswers : s.writeAnswers = []) :
    transmit c p s = .next (s.issued h ⟨c, p⟩) := by
  rw [transmit_eq hpending hhandle hfsm]
  exact congrArg _ (awaitWrite_nil (s := s.issued h ⟨c, p⟩) h s.addr7 c p hanswers)

theorem transmit_in_flight (hpending : s.pending ≠ none) : transmit c p s = .refused .primitiveInFlight := by
  obtain ⟨r, hr⟩ := Option.ne_none_iff_exists'.mp hpending
  simp only [transmit, hr]

theorem transmit_without_handle (hpending : s.pending = none) (hhandle : s.handle = none) :
    transmit c p s = .fault .transmitWithoutHandle := by
  simp only [transmit, hpending, hhandle]

theorem transmit_outside_ready (hpending : s.pending = none) (hhandle : s.handle ≠ none)
    (hinit : s.fsm ≠ .initializing) (hready : s.fsm ≠ .ready) : transmit c p s = .fault .transmitOutsideReady := by
  obtain ⟨h, hh⟩ := Option.ne_none_iff_exists'.mp hhandle
  simp only [transmit, hpending, hh, hinit, hready, or_self, if_false]

end Transmit

/-- Settles O38: both frames are transmissions, of their own control byte. -/
theorem frameIsOneAtomicWrite : Obligations.FrameIsOneAtomicWrite := by
  intro p s h a as hpending hhandle hfsm hanswers
  have hwrite (c : Byte) := transmit_answered (c := c) (p := p) hpending hhandle hfsm hanswers
  simp only [State.written, ← hpending] at hwrite
  exact ⟨hwrite ctrlInstr, hwrite ctrlData⟩

/-- Settles O39: both frames are transmissions that wait for their answer. -/
theorem unansweredFrameWaits : Obligations.UnansweredFrameWaits := fun _ _ _ hpending hhandle hfsm hanswers =>
  ⟨transmit_waits hpending hhandle hfsm hanswers, transmit_waits hpending hhandle hfsm hanswers⟩

/-- Settles O40: the three stops of a transmission, for either frame. -/
theorem frameOutsideItsPreconditionStops : Obligations.FrameOutsideItsPreconditionStops := by
  intro p s i hi
  obtain ⟨c, hexec⟩ : ∃ c, exec i s = transmit c p s := by
    obtain rfl | rfl : i = .wrIr p ∨ i = .wrDr p := by simpa using hi
    · exact ⟨ctrlInstr, rfl⟩
    · exact ⟨ctrlData, rfl⟩
  rw [hexec]
  exact ⟨transmit_in_flight, transmit_without_handle, transmit_outside_ready⟩

/-- Settles O42: a clear latch records exactly the failure of the one write. -/
theorem writeFailsUnlessExactlyTwoBytes : Obligations.WriteFailsUnlessExactlyTwoBytes := by
  refine ⟨fun _ => failed_eq_false_iff, fun p s t h a as hpending hhandle hready hanswers hclear hexec => ?_⟩
  have hwritten := (transmit_answered hpending hhandle (.inr hready) hanswers).symm.trans hexec
  rw [← next_inj.mp hwritten, ne_eq, ← failed_eq_false_iff, Bool.not_eq_false]
  simp [State.written, hclear]

end Sys2Proof.Machine
end

section
/-! SUPPORT. The micro-steps of a running command (41_sequencer.md R110, R113): one entry of a program, the answers to
`open` and to `configureAddress`, the late answer to a send. -/

namespace Sys2Proof.Machine

/-! ### One entry of a program -/

/-- The entries of the running micro-program as MUX hands them to the bus. -/
def State.entries (s : State) : List RomEntry :=
  match s.src with
  | .none | .direct => []
  | .romInit => s.romInit
  | .romBl => blFrames (operandOn s.opnd)

theorem blEntry_eq (on : Bool) (pc : Nat) : blEntry on pc = (blFrames on)[pc]? := by
  match pc with
  | 0 | 1 | 2 | 3 | 4 | 5 => rfl
  | n + 6 => simp [blEntry, blProgram, blFrames]

theorem selectFrame_eq_entries {s : State} (hsrc : s.src = .romInit ∨ s.src = .romBl) :
    selectFrame s = s.entries[s.seqPc]? := by
  obtain hsrc | hsrc := hsrc <;> simp only [selectFrame, State.entries, hsrc, blEntry_eq]

theorem programLength_eq_entries {s : State} (hsrc : s.src = .romInit ∨ s.src = .romBl) :
    programLength s = s.entries.length := by
  obtain hsrc | hsrc := hsrc <;> simp only [programLength, State.entries, hsrc]
  rfl

/-- The state once an entry is answered and the index has advanced. -/
def State.advanced (h : Handle) (f : RomEntry) (a : WriteAnswer) (as : List WriteAnswer) (s : State) : State :=
  { s.written h f a as with seqPc := s.seqPc + 1 }

theorem continueCommand_of_program {s : State} (hpending : s.pending = none)
    (hsrc : s.src = .romInit ∨ s.src = .romBl) :
    s.continueCommand =
      if s.seqPc + 1 < s.entries.length then { s with seqPc := s.seqPc + 1 }
      else State.endProgram { s with seqPc := s.seqPc + 1 } := by
  rw [← programLength_eq_entries hsrc]
  obtain hsrc | hsrc := hsrc <;> simp [State.continueCommand, hpending, hsrc]

section Entry

variable {s : State} {h : Handle} {f : RomEntry} {a : WriteAnswer} {as : List WriteAnswer}

/-- An entry whose write is in flight, or is issued now, is answered, and the command goes on. -/
theorem busyStep_answered (hpending : s.pending = none ∨ s.pending = some (.write h s.addr7 f.control f.payload))
    (hfsm : s.fsm = .initializing ∨ s.fsm = .ready) (hhandle : s.handle = some h) (hframe : selectFrame s = some f)
    (hanswers : s.writeAnswers = a :: as) : busyStep s = .next (s.written h f a as).continueCommand := by
  obtain hpending | hpending := hpending
  · rw [busyStep_frame hpending hframe, frameStep_eq, transmit_answered hpending hhandle hfsm hanswers]
    rfl
  · simp only [busyStep, hpending, awaitWrite_cons h f hanswers]

theorem busyStep_entry (hpending : s.pending = none ∨ s.pending = some (.write h s.addr7 f.control f.payload))
    (hsrc : s.src = .romInit ∨ s.src = .romBl) (hfsm : s.fsm = .initializing ∨ s.fsm = .ready)
    (hhandle : s.handle = some h) (hentry : s.entries[s.seqPc]? = some f) (hanswers : s.writeAnswers = a :: as) :
    busyStep s = .next
      (if s.seqPc + 1 < s.entries.length then s.advanced h f a as else (s.advanced h f a as).endProgram) := by
  rw [← selectFrame_eq_entries hsrc] at hentry
  rw [busyStep_answered hpending hfsm hhandle hentry hanswers]
  exact congrArg _ (continueCommand_of_program (s := s.written h f a as) rfl hsrc)

end Entry

theorem not_idle_of_program {s : State} (hsrc : s.src = .romInit ∨ s.src = .romBl) : ¬ s.Idle := by
  rintro ⟨hnone, _⟩
  simp [hnone] at hsrc

theorem endProgram_of_romInit {s : State} (hsrc : s.src = .romInit) :
    s.endProgram = { s with fsm := .ready }.respond .ok none := by simp only [State.endProgram, hsrc]

theorem endProgram_of_romBl {s : State} (hsrc : s.src = .romBl) :
    s.endProgram = s.respond (transportStatus s.aggFail) none := by simp only [State.endProgram, hsrc]

theorem endProgram_of_direct {s : State} (hsrc : s.src = .direct) :
    s.endProgram = s.respond (transportStatus s.aggFail) none := by simp only [State.endProgram, hsrc]

/-- Settles O32: the entry's micro-step, which ends INIT in Ready after the last entry. -/
theorem initStepAdvancesByOneEntry : Obligations.InitStepAdvancesByOneEntry := by
  intro s h f a as hpending hsrc hfsm hhandle hentry hanswers
  have hentries : s.entries = s.romInit := by simp only [State.entries, hsrc]
  have hbelow := (List.getElem?_eq_some_iff.mp hentry).1
  rw [step_of_running (not_idle_of_program (.inl hsrc)),
    busyStep_entry hpending (.inl hsrc) (.inl hfsm) hhandle (hentries ▸ hentry) hanswers, hentries]
  by_cases hlast : s.seqPc + 1 = s.romInit.length
  · rw [if_neg (by omega), endProgram_of_romInit (by exact hsrc)]
    simp [hlast, State.advanced, State.written, State.respond]
  · rw [if_pos (by omega)]
    simp [hlast, State.advanced, State.written, hsrc, hfsm]

/-- Settles O14: MUX hands the bus the entry whatever its control byte is, and a good answer leaves both flags. -/
theorem rawEntryIsTransmittedVerbatim : Obligations.RawEntryIsTransmittedVerbatim := by
  intro s h f a as hpending hsrc hfsm hhandle hentry _ _ hanswers hgood hmore
  rw [initStepAdvancesByOneEntry s h f a as (.inl hpending) hsrc hfsm hhandle hentry hanswers]
  simp [Nat.ne_of_lt hmore, transcript_single, hgood, ← hsrc, ← hfsm, ← hpending]

/-- Settles O25: the entry's micro-step, which ends BL with the aggregate's response after the sixth entry. -/
theorem backlightStepAdvancesByOneEntry : Obligations.BacklightStepAdvancesByOneEntry := by
  intro s h f a as hpending hsrc hfsm hhandle hentry hanswers
  have hentries : s.entries = blFrames (s.opnd.getLsbD 0) := by simp only [State.entries, hsrc, operandOn]
  have hlength : (blFrames (s.opnd.getLsbD 0)).length = 6 := rfl
  have hbelow := (List.getElem?_eq_some_iff.mp hentry).1
  rw [step_of_running (not_idle_of_program (.inr hsrc)),
    busyStep_entry hpending (.inr hsrc) (.inr hfsm) hhandle (hentries ▸ hentry) hanswers, hentries, hlength]
  by_cases hlast : s.seqPc = 5
  · rw [if_neg (by omega), endProgram_of_romBl (by exact hsrc)]
    simp [hlast, State.advanced, State.written, State.respond, transportStatus]
  · rw [if_pos (by omega)]
    simp [hlast, State.advanced, State.written, hsrc]

/-! ### The answers to `open` and to `configureAddress` -/

section Answers

variable {s : State} (path : Path) (h : Handle) (a7 : Addr7) {hd : Handle} {e : OsError}

theorem awaitOpen_ok {os : List OpenAnswer} (hanswers : s.openAnswers = .ok hd :: os) :
    s.awaitOpen path = { s with
      fsm := .addressed, handle := some hd, pending := some (.configAddr hd s.addr7), openAnswers := os
      hist := s.hist ++ [.opened path (.ok hd)] } := by
  simp only [State.awaitOpen, hanswers, State.completeOpen, State.emit]

theorem awaitOpen_err {os : List OpenAnswer} (hanswers : s.openAnswers = .err e :: os) :
    s.awaitOpen path = { s with
      fsm := .closed, src := .none, pending := none, openAnswers := os
      hist := s.hist ++ [.opened path (.err e), .resp .deviceOpenFailed (some e)] } := by
  simp [State.awaitOpen, hanswers, State.completeOpen, State.emit, State.raise, State.respond]

theorem awaitConfig_ok {cs : List ConfigAnswer} (hanswers : s.configAnswers = .ok :: cs) :
    s.awaitConfig h a7 =
      if 0 < programLength s then configured h a7 cs s else (configured h a7 cs s).endProgram := by
  obtain ⟨hnil, _⟩ | ⟨rest, hok, heq⟩ | ⟨e, rest, herr, _⟩ := awaitConfig_cases h a7 s
  · simp [hnil] at hanswers
  · obtain rfl : rest = cs := by simpa [hok] using hanswers
    exact heq
  · simp [herr] at hanswers

theorem awaitConfig_err {cs : List ConfigAnswer} (hanswers : s.configAnswers = .err e :: cs) :
    s.awaitConfig h a7 = { s with
      fsm := .closed, handle := none, src := .none, pending := none, configAnswers := cs
      hist := s.hist ++ [.cfgAddr h a7 (.err e), .close h, .resp .addressingFailed (some e)] } := by
  simp [State.awaitConfig, hanswers, State.completeConfig, State.emit, State.raise, State.respond, State.busClose]

end Answers

theorem step_of_open_in_flight {s : State} {path : Path} (hpending : s.pending = some (.openBus path)) :
    step s = .next (s.awaitOpen path) := by
  rw [step_of_running (not_idle_of_pending hpending)]
  simp only [busyStep, hpending]

theorem step_of_config_in_flight {s : State} {h : Handle} {a7 : Addr7}
    (hpending : s.pending = some (.configAddr h a7)) : step s = .next (s.awaitConfig h a7) := by
  rw [step_of_running (not_idle_of_pending hpending)]
  simp only [busyStep, hpending]

/-- Settles O33: each row takes its own answer; the program is over at once if it has no entry. -/
theorem openingAndAddressedTakeTheirAnswers : Obligations.OpeningAndAddressedTakeTheirAnswers := by
  refine ⟨fun s path h os hpending hanswers => ?opened, fun s path e os hpending hanswers => ?openFailed,
    fun s h a7 cs hpending hsrc hanswers hprogram => ?configured,
    fun s h a7 cs hpending hsrc hanswers hprogram => ?configuredEmpty,
    fun s h a7 e cs hpending hanswers => ?addressingFailed⟩
  case opened => rw [step_of_open_in_flight hpending, awaitOpen_ok path hanswers]
  case openFailed => rw [step_of_open_in_flight hpending, awaitOpen_err path hanswers]
  case configured =>
    have hlength : 0 < programLength s := by simpa only [programLength, hsrc] using List.length_pos_iff.mpr hprogram
    rw [step_of_config_in_flight hpending, awaitConfig_ok h a7 hanswers, if_pos hlength]
    rfl
  case configuredEmpty =>
    have hlength : programLength s = 0 := by simp only [programLength, hsrc, hprogram, List.length_nil]
    rw [step_of_config_in_flight hpending, awaitConfig_ok h a7 hanswers, if_neg (by omega),
      endProgram_of_romInit (by exact hsrc)]
    simp [configured, State.respond]
  case addressingFailed => rw [step_of_config_in_flight hpending, awaitConfig_err h a7 hanswers]

/-! ### The late answer to a send -/

/-- Settles O22: the answer is taken, and a send ends with the aggregate's response. -/
theorem lateAnswerEndsTheSend : Obligations.LateAnswerEndsTheSend := by
  intro s h a7 c p a as hsrc hclear hpending hanswers
  rw [step_of_running (not_idle_of_pending hpending)]
  simp only [busyStep, hpending, State.awaitWrite, hanswers, completeWrite_eq, State.continueCommand, hsrc,
    endProgram_of_direct, State.respond, transportStatus, hclear]
  simp

end Sys2Proof.Machine
end

section
/-! SUPPORT. The commands that are one transmission or none: SENDI, SENDD, SHUT and the refusals (40_encoder.md R83 to R85,
41_sequencer.md R107 to R109). -/

namespace Sys2Proof.Machine

/-! ### SENDI and SENDD -/

/-- The run of a send is its one micro-step. -/
theorem runToRest_send (b : Byte) (rs : RegSelect) {s : State} (hs : s.Idle) :
    runToRest 1 ((s.accept b).beginSend rs) =
      mapNext State.continueCommand (transmit (sendControl rs) b ((s.accept b).beginSend rs)) := by
  have hrest : ¬ ((s.accept b).beginSend rs).AtRest := by
    simp [State.AtRest, State.Idle, State.beginSend, State.blocked, hs.2]
  rw [runToRest_succ hrest, busyStep_frame (s := (s.accept b).beginSend rs) (f := ⟨sendControl rs, b⟩) hs.2 rfl,
    frameStep_eq]
  cases transmit (sendControl rs) b ((s.accept b).beginSend rs) <;> rfl

section Send

variable (b : Byte) (rs : RegSelect) {s : State} {h : Handle}

/-- A send whose write is answered: the write, its report if it failed, and the response. -/
theorem runToRest_send_answered {a : WriteAnswer} {as : List WriteAnswer} (hs : s.Idle) (hready : s.fsm = .ready)
    (hhandle : s.handle = some h) (hanswers : s.writeAnswers = a :: as) :
    runToRest 1 ((s.accept b).beginSend rs) = .next { s with
      opnd := b
      rs := rs
      suppress := s.suppress || a.failed
      aggFail := a.failed
      writeAnswers := as
      hist := s.hist ++ transcript h s.addr7 s.variant s.suppress [⟨sendControl rs, b⟩] [a] ++
        [.resp (if a = .count 2 then .ok else .transportError) none] } := by
  rw [runToRest_send b rs hs, transmit_answered (s := (s.accept b).beginSend rs) hs.2 hhandle (.inr hready) hanswers,
    ← transportStatus_failed]
  simp [mapNext, State.continueCommand, State.written, State.beginSend, State.accept, endProgram_of_direct,
    State.respond, hs.1, hs.2]

/-- A send whose write is not answered waits with it in flight. -/
theorem runToRest_send_waits (hs : s.Idle) (hready : s.fsm = .ready) (hhandle : s.handle = some h)
    (hanswers : s.writeAnswers = []) :
    runToRest 1 ((s.accept b).beginSend rs) = .next { s with
      opnd := b, aggFail := false, src := .direct, rs := rs
      pending := some (.write h s.addr7 (sendControl rs) b) } := by
  rw [runToRest_send b rs hs, transmit_waits (s := (s.accept b).beginSend rs) hs.2 hhandle (.inr hready) hanswers]
  exact congrArg _ (continueCommand_of_pending rfl)

end Send

theorem exec_sendi_ready (b : Byte) {s : State} (hs : s.Idle) (hready : s.fsm = .ready) :
    exec (.sendi b) s = runToRest 1 ((s.accept b).beginSend .instr) := by
  rw [exec_of_idle rfl hs, commandStart, if_pos hready, commandFuel]

theorem exec_sendd_ready (b : Byte) {s : State} (hs : s.Idle) (hready : s.fsm = .ready) :
    exec (.sendd b) s = runToRest 1 ((s.accept b).beginSend .data) := by
  rw [exec_of_idle rfl hs, commandStart, if_pos hready, commandFuel]

/-- Settles O18: the answered run of a send whose register select is INSTR. -/
theorem sendInstructionWritesOneFrame : Obligations.SendInstructionWritesOneFrame :=
  fun b _ _ _ _ hs hready hhandle hanswers =>
    (exec_sendi_ready b hs hready).trans (runToRest_send_answered b .instr hs hready hhandle hanswers)

/-- Settles O19: the answered run of a send whose register select is DATA. -/
theorem sendDataWritesOneFrame : Obligations.SendDataWritesOneFrame :=
  fun b _ _ _ _ hs hready hhandle hanswers =>
    (exec_sendd_ready b hs hready).trans (runToRest_send_answered b .data hs hready hhandle hanswers)

/-- Settles O21: the waiting run of a send, for either register select. -/
theorem unansweredSendWaits : Obligations.UnansweredSendWaits := fun b _ _ hs hready hhandle hanswers =>
  ⟨(exec_sendi_ready b hs hready).trans (runToRest_send_waits b .instr hs hready hhandle hanswers),
    (exec_sendd_ready b hs hready).trans (runToRest_send_waits b .data hs hready hhandle hanswers)⟩

/-! ### Commands that only respond -/

/-- A command whose first state is a response to it. -/
theorem exec_of_responded {i : Instr} {s : State} {arg : Byte} {st : Status} (hi : i.port = .command) (hs : s.Idle)
    (hstart : commandStart i s = (s.accept arg).respond st none) :
    exec i s = .next { s with opnd := arg, aggFail := false, hist := s.hist ++ [.resp st none] } := by
  rw [exec_of_idle hi hs, hstart, runToRest_of_rest (s := (s.accept arg).respond st none) (.inl ⟨rfl, hs.2⟩)]
  simp [State.respond, State.accept, hs.1]

/-- Settles O20: outside Ready the first state of each of the three is its response. -/
theorem sendsOutsideReadyAreRefused : Obligations.SendsOutsideReadyAreRefused := fun _ hs hready =>
  ⟨fun _ => exec_of_responded rfl hs (if_neg hready), fun _ => exec_of_responded rfl hs (if_neg hready),
    fun _ => exec_of_responded rfl hs (if_neg hready)⟩

/-- Settles O30: outside Unopened the first state of INIT is its response. -/
theorem initOutsideUnopenedIsRefused : Obligations.InitOutsideUnopenedIsRefused :=
  fun _ hs hfsm => exec_of_responded rfl hs (if_neg hfsm)

/-! ### SHUT -/

theorem commandStart_shut_none {s : State} (hhandle : s.handle = none) :
    commandStart .shut s = (s.accept 0).respond .ok none := by simp only [commandStart, hhandle]

theorem commandStart_shut_some {s : State} {h : Handle} (hhandle : s.handle = some h) :
    commandStart .shut s = ((s.accept 0).release h).respond .ok none := by simp only [commandStart, hhandle]

/-- Settles O36: the first state of SHUT is its response. -/
theorem shutWithoutHandleDoesNothing : Obligations.ShutWithoutHandleDoesNothing := by
  intro s hs hhandle
  rw [exec_of_responded rfl hs (commandStart_shut_none hhandle)]

/-- Settles O35: the first state of SHUT is the release and then its response. -/
theorem shutReleasesTheHandle : Obligations.ShutReleasesTheHandle := by
  intro s h hs hhandle
  rw [exec_of_idle rfl hs, commandStart_shut_some hhandle]
  simp [commandFuel, runToRest, release_eq, State.accept, State.respond, hs.1]

/-- Settles O37: the first SHUT leaves no handle, so the second one finds none. -/
theorem secondShutIssuesNothing : Obligations.SecondShutIssuesNothing := by
  intro s hs
  obtain ⟨t, hfirst, hidle, hnone⟩ : ∃ t, exec .shut s = .next t ∧ t.Idle ∧ t.handle = none := by
    cases hhandle : s.handle with
    | none => exact ⟨_, shutWithoutHandleDoesNothing s hs hhandle, hs, hhandle⟩
    | some h => exact ⟨_, shutReleasesTheHandle s h hs hhandle, hs, rfl⟩
  exact ⟨t, _, hfirst, shutWithoutHandleDoesNothing t hidle hnone, rfl, rfl, hnone, hnone⟩

end Sys2Proof.Machine
end

section
/-! SUPPORT. The run over a program ROM from its first entry: BL (40_encoder.md R86, R87). -/

namespace Sys2Proof.Machine

theorem transcript_nil (h : Handle) (a7 : Addr7) (v : Variant) (suppress : Bool) (fs : List RomEntry) :
    transcript h a7 v suppress fs [] = [] := by cases fs <;> rfl

theorem transcript_cons (h : Handle) (a7 : Addr7) (v : Variant) (suppress : Bool) (f : RomEntry) (fs : List RomEntry)
    (a : WriteAnswer) (as : List WriteAnswer) :
    transcript h a7 v suppress (f :: fs) (a :: as) =
      transcript h a7 v suppress [f] [a] ++ transcript h a7 v (suppress || a.failed) fs as := by
  simp [transcript]

theorem anyFailed_cons (a : WriteAnswer) (as : List WriteAnswer) :
    anyFailed (a :: as) = (a.failed || anyFailed as) := rfl

/-- A history is transmitted entry by entry, the latch being what the entries before have left. -/
theorem transcript_append (h : Handle) (a7 : Addr7) (v : Variant) (as bs : List WriteAnswer) :
    ∀ (suppress : Bool) (fs : List RomEntry), as.length ≤ fs.length →
      transcript h a7 v suppress fs (as ++ bs) =
        transcript h a7 v suppress fs as ++ transcript h a7 v (suppress || anyFailed as) (fs.drop as.length) bs := by
  induction as with
  | nil => intro suppress fs _; simp [transcript_nil, anyFailed]
  | cons a as ih =>
    intro suppress fs hle
    cases fs with
    | nil => simp at hle
    | cons f fs =>
      rw [List.cons_append, transcript_cons, ih _ fs (by simpa using hle), transcript_cons _ _ _ _ _ _ _ as,
        anyFailed_cons]
      simp [Bool.or_assoc]

/-- The state of a running program once the next entries are answered by `as`. -/
def State.afterEntries (h : Handle) (as rest : List WriteAnswer) (s : State) : State :=
  { s with
    seqPc := s.seqPc + as.length
    suppress := s.suppress || anyFailed as
    aggFail := s.aggFail || anyFailed as
    writeAnswers := rest
    hist := s.hist ++ transcript h s.addr7 s.variant s.suppress (s.entries.drop s.seqPc) as }

theorem not_atRest_of_program {s : State} (hsrc : s.src = .romInit ∨ s.src = .romBl) (hpending : s.pending = none) :
    ¬ s.AtRest := by
  rintro (hidle | hblocked)
  · exact not_idle_of_program hsrc hidle
  · simp [State.blocked, hpending] at hblocked

theorem afterEntries_nil {s : State} (h : Handle) {rest : List WriteAnswer} (hanswers : s.writeAnswers = rest) :
    s.afterEntries h [] rest = s := by
  simp [State.afterEntries, transcript_nil, anyFailed, ← hanswers]

/-- One entry and then the others. -/
theorem afterEntries_advanced {s : State} (h : Handle) (a : WriteAnswer) (as rest : List WriteAnswer)
    (hpending : s.pending = none) (hbelow : s.seqPc < s.entries.length) :
    (s.advanced h s.entries[s.seqPc] a (as ++ rest)).afterEntries h as rest = s.afterEntries h (a :: as) rest := by
  have hdrop : s.entries.drop s.seqPc = s.entries[s.seqPc] :: s.entries.drop (s.seqPc + 1) :=
    List.drop_eq_getElem_cons hbelow
  have hentries : (s.advanced h s.entries[s.seqPc] a (as ++ rest)).entries = s.entries := rfl
  simp only [State.afterEntries, hentries, hdrop, anyFailed_cons]
  rw [transcript_cons _ _ _ _ _ _ _ as]
  simp [State.advanced, State.written, hpending, Bool.or_assoc, Nat.add_comm, Nat.add_left_comm]

/-- As long as entries are left after them, a run writes one entry for each answer. -/
theorem runToRest_afterEntries (h : Handle) (rest : List WriteAnswer) (n : Nat) (as : List WriteAnswer) :
    ∀ s : State, s.src = .romInit ∨ s.src = .romBl → s.fsm = .initializing ∨ s.fsm = .ready → s.pending = none →
      s.handle = some h → s.writeAnswers = as ++ rest → s.seqPc + as.length < s.entries.length →
      runToRest (as.length + n) s = runToRest n (s.afterEntries h as rest) := by
  induction as with
  | nil =>
    intro s _ _ _ _ hanswers _
    rw [afterEntries_nil (rest := rest) h hanswers, List.length_nil, Nat.zero_add]
  | cons a as ih =>
    intro s hsrc hfsm hpending hhandle hanswers hmore
    simp only [List.length_cons] at hmore ⊢
    have hbelow : s.seqPc < s.entries.length := by omega
    have hadvance := busyStep_entry (as := as ++ rest) (.inl hpending) hsrc hfsm hhandle
      (List.getElem?_eq_getElem hbelow) hanswers
    rw [if_pos (by omega)] at hadvance
    have hnext : (s.advanced h s.entries[s.seqPc] a (as ++ rest)).seqPc + as.length < s.entries.length := by
      simp only [State.advanced]; omega
    rw [Nat.add_right_comm, runToRest_succ (not_atRest_of_program hsrc hpending), hadvance, bindNext,
      ih (s.advanced h s.entries[s.seqPc] a (as ++ rest)) hsrc hfsm rfl hhandle rfl hnext,
      afterEntries_advanced h a as rest hpending hbelow]

/-- An entry without an answer stops the run with its write in flight. -/
theorem runToRest_entry_waits {s : State} {h : Handle} {f : RomEntry} (n : Nat)
    (hsrc : s.src = .romInit ∨ s.src = .romBl) (hfsm : s.fsm = .initializing ∨ s.fsm = .ready)
    (hpending : s.pending = none) (hhandle : s.handle = some h) (hentry : s.entries[s.seqPc]? = some f)
    (hanswers : s.writeAnswers = []) :
    runToRest (n + 1) s = .next (s.issued h f) := by
  rw [← selectFrame_eq_entries hsrc] at hentry
  rw [runToRest_succ (not_atRest_of_program hsrc hpending), busyStep_frame hpending hentry, frameStep_eq,
    transmit_waits hpending hhandle hfsm hanswers, mapNext, bindNext, continueCommand_of_pending rfl]
  exact runToRest_of_rest (s := s.issued h f) (.inr (List.isEmpty_iff.mpr hanswers)) n

/-- The answer to the last entry ends the run. -/
theorem runToRest_last_entry {s : State} {h : Handle} {f : RomEntry} {a : WriteAnswer} {as : List WriteAnswer} (n : Nat)
    (hsrc : s.src = .romInit ∨ s.src = .romBl) (hfsm : s.fsm = .initializing ∨ s.fsm = .ready)
    (hpending : s.pending = none) (hhandle : s.handle = some h) (hentry : s.entries[s.seqPc]? = some f)
    (hlast : s.seqPc + 1 = s.entries.length) (hanswers : s.writeAnswers = a :: as) :
    runToRest (n + 1) s = .next (s.advanced h f a as).endProgram := by
  have hended : (s.advanced h f a as).endProgram.AtRest := by
    obtain hsrc | hsrc := hsrc
    · rw [endProgram_of_romInit (by exact hsrc)]; exact .inl ⟨rfl, rfl⟩
    · rw [endProgram_of_romBl (by exact hsrc)]; exact .inl ⟨rfl, rfl⟩
  rw [runToRest_succ (not_atRest_of_program hsrc hpending),
    busyStep_entry (.inl hpending) hsrc hfsm hhandle hentry hanswers, if_neg (by omega), bindNext,
    runToRest_of_rest hended]

theorem exec_bl_ready (on : Bool) {s : State} (hs : s.Idle) (hready : s.fsm = .ready) :
    exec (.bl on) s = runToRest 6 (s.accept (blOperand on)).beginBacklight := by
  rw [exec_of_idle rfl hs, commandStart, if_pos hready, commandFuel]

theorem operandOn_blOperand (on : Bool) : operandOn (blOperand on) = on := by cases on <;> decide

/-- BL with its first entries answered by `as`. -/
def State.backlightAt (on : Bool) (h : Handle) (as rest : List WriteAnswer) (s : State) : State :=
  { s with
    opnd := if on then 1 else 0
    suppress := s.suppress || anyFailed as
    aggFail := anyFailed as
    src := .romBl
    seqPc := as.length
    writeAnswers := rest
    hist := s.hist ++ transcript h s.addr7 s.variant s.suppress (blFrames on) as }

@[simp] theorem entries_backlightAt (on : Bool) (h : Handle) (as rest : List WriteAnswer) (s : State) :
    (s.backlightAt on h as rest).entries = blFrames on := congrArg blFrames (operandOn_blOperand on)

theorem afterEntries_beginBacklight (on : Bool) (h : Handle) (as rest : List WriteAnswer) (s : State) :
    ((s.accept (blOperand on)).beginBacklight).afterEntries h as rest = s.backlightAt on h as rest := by
  have hentries : ((s.accept (blOperand on)).beginBacklight).entries = blFrames on :=
    congrArg blFrames (operandOn_blOperand on)
  simp only [State.afterEntries, hentries]
  simp [State.backlightAt, State.beginBacklight, State.accept, blOperand]

/-- BL against answers for fewer than its six entries. -/
theorem exec_bl_backlightAt (on : Bool) {s : State} {h : Handle} {as rest : List WriteAnswer} {n : Nat} (hs : s.Idle)
    (hready : s.fsm = .ready) (hhandle : s.handle = some h) (hanswers : s.writeAnswers = as ++ rest)
    (hlength : as.length + (n + 1) = 6) :
    exec (.bl on) s = runToRest (n + 1) (s.backlightAt on h as rest) := by
  have hmore : 0 + as.length < 6 := by omega
  rw [exec_bl_ready on hs hready, ← hlength, ← afterEntries_beginBacklight]
  exact runToRest_afterEntries h rest (n + 1) as _ (.inr rfl) (.inr hready) hs.2 hhandle hanswers hmore

/-- Settles O24: the entries answered, and the next one in flight. -/
theorem unansweredBacklightWaits : Obligations.UnansweredBacklightWaits := by
  intro on s h f hs hready hhandle hentry
  have hbelow : s.writeAnswers.length < 6 := (List.getElem?_eq_some_iff.mp hentry).1
  obtain ⟨n, hn⟩ := Nat.exists_eq_add_of_lt hbelow
  rw [exec_bl_backlightAt on hs hready hhandle (List.append_nil _).symm hn.symm,
    runToRest_entry_waits (s := s.backlightAt on h s.writeAnswers []) (f := f) n (.inr rfl) (.inr hready) hs.2 hhandle
      (by rw [entries_backlightAt]; exact hentry) rfl]
  rfl

/-- Settles O23: five entries answered, and the sixth, which ends the command. -/
theorem backlightWritesSixFrames : Obligations.BacklightWritesSixFrames := by
  intro on s h as rest hs hready hhandle hanswers hsix
  obtain ⟨as, a, rfl⟩ : ∃ bs a, as = bs ++ [a] := by
    have hne : as ≠ [] := by rintro rfl; simp at hsix
    exact ⟨_, _, (List.dropLast_append_getLast hne).symm⟩
  have hfive : as.length = 5 := by simpa using hsix
  have hentry : (blFrames on)[as.length]? = some ⟨0x80, 0x28⟩ := by rw [hfive]; rfl
  rw [exec_bl_backlightAt (as := as) (rest := a :: rest) (n := 0) on hs hready hhandle (by simpa using hanswers)
      (by omega),
    runToRest_last_entry (s := s.backlightAt on h as (a :: rest)) 0 (.inr rfl) (.inr hready) hs.2 hhandle
      (by rw [entries_backlightAt]; exact hentry) (by rw [entries_backlightAt]; exact congrArg (· + 1) hfive) rfl,
    endProgram_of_romBl rfl, transcript_append h s.addr7 s.variant as [a] s.suppress (blFrames on)
      (by simp [hfive, blFrames])]
  simp [State.backlightAt, State.advanced, State.written, State.respond, hfive, anyFailed, hs.1, hs.2, transportStatus,
    blFrames, Bool.or_assoc]

end Sys2Proof.Machine
end

section
/-! SUPPORT. INIT from its acceptance on (41_sequencer.md R101 to R106): one case for each way PLATFORM can answer. -/

namespace Sys2Proof.Machine

/-- INIT waiting for `open`. -/
def State.initOpening (s : State) : State := (s.accept 0).beginInit

/-- INIT once `open` is answered well. -/
def State.initAddressed (h : Handle) (os : List OpenAnswer) (s : State) : State :=
  { s.initOpening with
    fsm := .addressed
    handle := some h
    pending := some (.configAddr h (maskAddr s.cfg.addr))
    openAnswers := os
    hist := s.hist ++ [.opened s.cfg.path (.ok h)] }

/-- INIT once `configureAddress` is answered well, at the first entry of its program. -/
def State.initConfigured (h : Handle) (os : List OpenAnswer) (cs : List ConfigAnswer) (s : State) : State :=
  configured h (maskAddr s.cfg.addr) cs (s.initAddressed h os)

theorem exec_init_unopened {s : State} (hs : s.Idle) (hfsm : s.fsm = .unopened) :
    exec .init s = runToRest (s.romInit.length + 2) s.initOpening := by
  rw [exec_of_idle rfl hs, commandStart, if_pos hfsm, commandFuel, State.initOpening]

theorem not_atRest_of_not_blocked {s : State} {r : Request} (hpending : s.pending = some r)
    (hanswered : s.blocked = false) :
    ¬ s.AtRest := by
  rintro (hidle | hblocked)
  · exact not_idle_of_pending hpending hidle
  · rw [hanswered] at hblocked; cases hblocked

theorem runToRest_open_answered {s : State} {path : Path} {a : OpenAnswer} {os : List OpenAnswer} (n : Nat)
    (hpending : s.pending = some (.openBus path)) (hanswers : s.openAnswers = a :: os) :
    runToRest (n + 1) s = runToRest n (s.awaitOpen path) := by
  have hanswered : s.blocked = false := by simp [State.blocked, hpending, hanswers]
  rw [runToRest_succ (not_atRest_of_not_blocked hpending hanswered)]
  simp only [busyStep, hpending, bindNext]

theorem runToRest_config_answered {s : State} {h : Handle} {a7 : Addr7} {a : ConfigAnswer} {cs : List ConfigAnswer}
    (n : Nat) (hpending : s.pending = some (.configAddr h a7)) (hanswers : s.configAnswers = a :: cs) :
    runToRest (n + 1) s = runToRest n (s.awaitConfig h a7) := by
  have hanswered : s.blocked = false := by simp [State.blocked, hpending, hanswers]
  rw [runToRest_succ (not_atRest_of_not_blocked hpending hanswered)]
  simp only [busyStep, hpending, bindNext]

section Init

variable {s : State} {h : Handle} {os : List OpenAnswer} {cs : List ConfigAnswer}

theorem exec_init_of_opened (hs : s.Idle) (hfsm : s.fsm = .unopened) (hopen : s.openAnswers = .ok h :: os) :
    exec .init s = runToRest (s.romInit.length + 1) (s.initAddressed h os) := by
  rw [exec_init_unopened hs hfsm, runToRest_open_answered (s := s.initOpening) (path := s.cfg.path) _ rfl hopen,
    awaitOpen_ok (s := s.initOpening) s.cfg.path hopen]
  rfl

/-- The program starts at its first entry, or is over at once if it has none. -/
theorem exec_init_of_configured (hs : s.Idle) (hfsm : s.fsm = .unopened) (hopen : s.openAnswers = .ok h :: os)
    (hconfig : s.configAnswers = .ok :: cs) :
    exec .init s = runToRest s.romInit.length
      (if 0 < s.romInit.length then s.initConfigured h os cs else (s.initConfigured h os cs).endProgram) := by
  rw [exec_init_of_opened hs hfsm hopen, runToRest_config_answered (s := s.initAddressed h os) _ rfl hconfig,
    awaitConfig_ok (s := s.initAddressed h os) h (maskAddr s.cfg.addr) hconfig]
  rfl

end Init

/-- Settles O28: the run is the wait for `open` and its answer. -/
theorem initStopsWhenOpenFails : Obligations.InitStopsWhenOpenFails := by
  intro s e os hs hfsm hopen
  rw [exec_init_unopened hs hfsm, runToRest_open_answered (s := s.initOpening) (path := s.cfg.path) _ rfl hopen,
    awaitOpen_err (s := s.initOpening) s.cfg.path hopen, runToRest_of_rest (.inl ⟨rfl, rfl⟩)]
  simp [State.initOpening, State.beginInit, State.accept, hs.1, hs.2]

/-- Settles O29: the run is the two waits and their answers. -/
theorem initStopsWhenAddressingFails : Obligations.InitStopsWhenAddressingFails := by
  intro s h e os cs hs hfsm hopen hconfig
  rw [exec_init_of_opened hs hfsm hopen, runToRest_config_answered (s := s.initAddressed h os) _ rfl hconfig,
    awaitConfig_err (s := s.initAddressed h os) h (maskAddr s.cfg.addr) hconfig, runToRest_of_rest (.inl ⟨rfl, rfl⟩)]
  simp [State.initAddressed, State.initOpening, State.beginInit, State.accept, hs.1, hs.2]

/-- Settles O27: the run over ROM_INIT, or its immediate end if the program has no entry. -/
theorem initWritesTheWholeProgram : Obligations.InitWritesTheWholeProgram := by
  intro s h os cs as rest hs hfsm hopen hconfig hanswers hlength
  rw [exec_init_of_configured hs hfsm hopen hconfig]
  cases hrom : s.romInit.length with
  | zero =>
    obtain rfl : as = [] := List.length_eq_zero_iff.mp (hlength.trans hrom)
    rw [if_neg (Nat.lt_irrefl 0), endProgram_of_romInit rfl, runToRest]
    simpa [State.initConfigured, configured, State.initAddressed, State.initOpening, State.beginInit, State.accept,
      State.respond, transcript_nil, anyFailed, hs.1, hs.2] using hanswers
  | succ n =>
    rw [if_pos (Nat.succ_pos n),
      runToRest_romInit n (s.initConfigured h os cs) h as rest rfl rfl rfl rfl hanswers
        ((Nat.zero_add (n + 1)).trans hrom.symm) (hlength.trans hrom)]
    simp [State.initConfigured, configured, State.initAddressed, State.initOpening, State.beginInit, State.accept,
      hs.1, hs.2, ← hrom]

/-- INIT without an answer to `open`. -/
theorem exec_init_opening {s : State} (hs : s.Idle) (hfsm : s.fsm = .unopened) (hopen : s.openAnswers = []) :
    exec .init s = .next s.initOpening := by
  have hblocked : s.initOpening.blocked = true := List.isEmpty_iff.mpr hopen
  rw [exec_init_unopened hs hfsm, runToRest_of_rest (.inr hblocked)]

/-- INIT without an answer to `configureAddress`. -/
theorem exec_init_addressed {s : State} {h : Handle} {os : List OpenAnswer} (hs : s.Idle) (hfsm : s.fsm = .unopened)
    (hopen : s.openAnswers = .ok h :: os) (hconfig : s.configAnswers = []) :
    exec .init s = .next (s.initAddressed h os) := by
  have hblocked : (s.initAddressed h os).blocked = true := List.isEmpty_iff.mpr hconfig
  rw [exec_init_of_opened hs hfsm hopen, runToRest_of_rest (.inr hblocked)]

/-- INIT with its first entries written and entry `f` in flight. -/
def State.initWaiting (h : Handle) (f : RomEntry) (os : List OpenAnswer) (cs : List ConfigAnswer) (s : State) : State :=
  { s with
    fsm := .initializing
    handle := some h
    addr7 := maskAddr s.cfg.addr
    variant := s.cfg.variant
    suppress := s.suppress || anyFailed s.writeAnswers
    aggFail := anyFailed s.writeAnswers
    seqPc := s.writeAnswers.length
    src := .romInit
    opnd := 0
    pending := some (.write h (maskAddr s.cfg.addr) f.control f.payload)
    openAnswers := os
    configAnswers := cs
    writeAnswers := []
    hist := s.hist ++
      [.opened s.cfg.path (.ok h), .cfgAddr h (maskAddr s.cfg.addr) .ok,
        .report .info ⟨.variantInfo, 0, maskAddr s.cfg.addr, s.cfg.variant⟩] ++
      transcript h (maskAddr s.cfg.addr) s.cfg.variant s.suppress s.romInit s.writeAnswers }

/-- INIT with fewer answers than entries. -/
theorem exec_init_waiting {s : State} {h : Handle} {f : RomEntry} {os : List OpenAnswer} {cs : List ConfigAnswer}
    (hs : s.Idle) (hfsm : s.fsm = .unopened) (hopen : s.openAnswers = .ok h :: os) (hconfig : s.configAnswers = .ok :: cs)
    (hentry : s.romInit[s.writeAnswers.length]? = some f) : exec .init s = .next (s.initWaiting h f os cs) := by
  have hbelow : s.writeAnswers.length < s.romInit.length := (List.getElem?_eq_some_iff.mp hentry).1
  rw [exec_init_of_configured hs hfsm hopen hconfig, if_pos (Nat.zero_lt_of_lt hbelow),
    runToRest_romInit_waits s.writeAnswers s.romInit.length (s.initConfigured h os cs) h f rfl rfl rfl rfl rfl
      ((congrArg _ (Nat.zero_add _)).trans hentry) hbelow]
  simp [State.initWaiting, State.initConfigured, configured, State.initAddressed, State.initOpening, State.beginInit,
    State.accept]

/-- Settles O31: waiting for `open`, for `configureAddress`, and for the answer to an entry. -/
theorem unansweredInitWaits : Obligations.UnansweredInitWaits :=
  ⟨fun _ hs hfsm hopen => exec_init_opening hs hfsm hopen,
    fun _ _ _ hs hfsm hopen hconfig => exec_init_addressed hs hfsm hopen hconfig,
    fun _ _ _ _ _ hs hfsm hopen hconfig hentry => exec_init_waiting hs hfsm hopen hconfig hentry⟩

end Sys2Proof.Machine
end

section
/-! SUPPORT. The life-cycle invariant (10_state.md R32) as the four phases a state can be in, and what a micro-step does
in each. -/

namespace Sys2Proof.Machine

/-- CORE is on the pair `f`, whose write is about to be issued or in flight. -/
structure Transmitting (h : Handle) (f : RomEntry) (s : State) : Prop where
  handle : s.handle = some h
  source : (s.src = .romInit ∧ s.fsm = .initializing) ∨ ((s.src = .direct ∨ s.src = .romBl) ∧ s.fsm = .ready)
  frame : selectFrame s = some f
  pending : s.pending = none ∨ s.pending = some (.write h s.addr7 f.control f.payload)

/-- The phases of a life: between commands, INIT's two waits, and the transmission of a pair. -/
inductive Phase (s : State) : Prop where
  | resting (idle : s.Idle)
      (fsm : (s.fsm = .unopened ∨ s.fsm = .closed) ∧ s.handle = none ∨ s.fsm = .ready ∧ s.handle ≠ none)
  | opening (path : Path) (fsm : s.fsm = .opening) (pending : s.pending = some (.openBus path))
      (src : s.src = .romInit) (handle : s.handle = none)
  | addressed (h : Handle) (fsm : s.fsm = .addressed) (pending : s.pending = some (.configAddr h s.addr7))
      (src : s.src = .romInit) (handle : s.handle = some h)
  | transmitting (h : Handle) (f : RomEntry) (running : Transmitting h f s)

theorem seqPc_lt_of_selectFrame {s : State} {f : RomEntry} (hsrc : s.src = .romInit ∨ s.src = .romBl)
    (hframe : selectFrame s = some f) : s.seqPc < programLength s := by
  rw [selectFrame_eq_entries hsrc] at hframe
  rw [programLength_eq_entries hsrc]
  exact (List.getElem?_eq_some_iff.mp hframe).1

theorem selectFrame_of_seqPc_lt {s : State} (hsrc : s.src = .romInit ∨ s.src = .romBl)
    (hbelow : s.seqPc < programLength s) : ∃ f, selectFrame s = some f := by
  rw [programLength_eq_entries hsrc] at hbelow
  exact ⟨_, (selectFrame_eq_entries hsrc).trans (List.getElem?_eq_getElem hbelow)⟩

/-- With no primitive of INIT's two waits in flight, the source says what is being transmitted. -/
theorem LifeCycle.source_of_busy {s : State} (hs : LifeCycle s) (hsrc : s.src ≠ .none)
    (hopen : ∀ path, s.pending ≠ some (.openBus path)) (hconfig : ∀ h a7, s.pending ≠ some (.configAddr h a7)) :
    (s.src = .romInit ∧ s.fsm = .initializing) ∨ ((s.src = .direct ∨ s.src = .romBl) ∧ s.fsm = .ready) := by
  cases hsource : s.src with
  | none => exact absurd hsource hsrc
  | direct => exact .inr ⟨.inl rfl, hs.send_source (.inl hsource)⟩
  | romBl => exact .inr ⟨.inr rfl, hs.send_source (.inr hsource)⟩
  | romInit =>
    obtain hfsm | hfsm | hfsm := hs.init_source.mp hsource
    · obtain ⟨path, hp⟩ := hs.open_in_flight.mp hfsm
      exact absurd hp (hopen path)
    · obtain ⟨h, a7, hp⟩ := hs.config_in_flight.mp hfsm
      exact absurd hp (hconfig h a7)
    · exact .inl ⟨rfl, hfsm⟩

theorem LifeCycle.phase {s : State} (hs : LifeCycle s) : Phase s := by
  match hp : s.pending with
  | some (.openBus path) =>
    have hfsm := hs.open_in_flight.mpr ⟨path, hp⟩
    have hhandle : s.handle = none := by simpa [hfsm] using hs.handle_held
    exact .opening path hfsm hp (hs.init_source.mpr (.inl hfsm)) hhandle
  | some (.configAddr h a7) =>
    have hfsm := hs.config_in_flight.mpr ⟨h, a7, hp⟩
    obtain ⟨hhandle, rfl⟩ := hs.config_arguments h a7 hp
    exact .addressed h hfsm hp (hs.init_source.mpr (.inr (.inl hfsm))) hhandle
  | some (.write h a7 c p) =>
    obtain ⟨hhandle, rfl, hframe⟩ := hs.write_arguments h a7 c p hp
    have hsrc : s.src ≠ .none := fun hnone => by simp [selectFrame, hnone] at hframe
    exact .transmitting h ⟨c, p⟩ ⟨hhandle, hs.source_of_busy hsrc (by simp [hp]) (by simp [hp]), hframe, .inr hp⟩
  | none =>
    by_cases hsrc : s.src = .none
    · have hheld := hs.handle_held
      obtain hfsm | hfsm | hfsm := hs.idle_rests ⟨hsrc, hp⟩
      · exact .resting ⟨hsrc, hp⟩ (.inl ⟨.inl hfsm, by simpa [hfsm] using hheld⟩)
      · exact .resting ⟨hsrc, hp⟩ (.inr ⟨hfsm, by simp [hheld, hfsm]⟩)
      · exact .resting ⟨hsrc, hp⟩ (.inl ⟨.inr hfsm, by simpa [hfsm] using hheld⟩)
    · have hsource := hs.source_of_busy hsrc (by simp [hp]) (by simp [hp])
      obtain ⟨h, hhandle⟩ : ∃ h, s.handle = some h := by
        rw [← Option.ne_none_iff_exists', hs.handle_held]
        obtain ⟨_, hfsm⟩ | ⟨_, hfsm⟩ := hsource <;> simp [hfsm]
      obtain ⟨f, hframe⟩ : ∃ f, selectFrame s = some f := by
        obtain ⟨hinit, hfsm⟩ | ⟨hdirect | hbl, hfsm⟩ := hsource
        · exact selectFrame_of_seqPc_lt (.inl hinit) (hs.index_below (.inl hfsm))
        · exact ⟨⟨sendControl s.rs, s.opnd⟩, by simp [selectFrame, hdirect]⟩
        · exact selectFrame_of_seqPc_lt (.inr hbl) (hs.index_below (.inr hbl))
      exact .transmitting h f ⟨hhandle, hsource, hframe, .inl hp⟩

theorem Transmitting.lifeCycle {h : Handle} {f : RomEntry} {s : State} (ht : Transmitting h f s) : LifeCycle s := by
  obtain ⟨hhandle, hsource, hframe, hpending⟩ := ht
  have hidle := not_idle_of_selectFrame hframe
  have hopen (path : Path) : s.pending ≠ some (.openBus path) := by obtain hp | hp := hpending <;> simp [hp]
  have hconfig (h : Handle) (a7 : Addr7) : s.pending ≠ some (.configAddr h a7) := by
    obtain hp | hp := hpending <;> simp [hp]
  have hwrite (h' : Handle) (a7 : Addr7) (c p : Byte) (hw : s.pending = some (.write h' a7 c p)) :
      s.handle = some h' ∧ a7 = s.addr7 ∧ selectFrame s = some ⟨c, p⟩ := by
    obtain hp | hp := hpending
    · simp [hp] at hw
    · obtain ⟨rfl, rfl, rfl, rfl⟩ : h = h' ∧ s.addr7 = a7 ∧ f.control = c ∧ f.payload = p := by simpa [hp] using hw
      exact ⟨hhandle, rfl, hframe⟩
  have hsourceOf : (s.fsm = .initializing ∨ s.fsm = .ready) ∧ (s.src = .romInit ↔ s.fsm = .initializing) ∧
      (s.src = .direct ∨ s.src = .romBl → s.fsm = .ready) := by
    obtain ⟨hsrc, hfsm⟩ | ⟨hsrc | hsrc, hfsm⟩ := hsource <;> simp [hsrc, hfsm]
  obtain ⟨hfsm, hinit, hsend⟩ := hsourceOf
  have hnot : s.fsm ≠ .opening ∧ s.fsm ≠ .addressed := by obtain hf | hf := hfsm <;> simp [hf]
  exact {
    idle_rests := fun h => absurd h hidle
    handle_held := ⟨fun _ => .inr hfsm, fun _ => by simp [hhandle]⟩
    open_in_flight := ⟨fun h => absurd h hnot.1, fun ⟨path, hp⟩ => absurd hp (hopen path)⟩
    config_in_flight := ⟨fun h => absurd h hnot.2, fun ⟨h, a7, hp⟩ => absurd hp (hconfig h a7)⟩
    config_arguments := fun h a7 hp => absurd hp (hconfig h a7)
    write_arguments := hwrite
    init_source := by simp [hinit, hnot]
    send_source := hsend
    index_below := fun h => seqPc_lt_of_selectFrame (h.imp hinit.mpr id) hframe }

theorem Phase.lifeCycle {s : State} (hs : Phase s) : LifeCycle s := by
  cases hs with
  | resting hidle hfsm =>
    obtain ⟨hsrc, hpending⟩ := hidle
    obtain ⟨hfsm | hfsm, hhandle⟩ | ⟨hfsm, hhandle⟩ := hfsm <;>
      constructor <;> simp [hsrc, hpending, hfsm, hhandle]
  | opening path hfsm hpending hsrc hhandle => constructor <;> simp [hsrc, hpending, hfsm, hhandle, State.Idle]
  | addressed h hfsm hpending hsrc hhandle =>
    constructor <;> simp +contextual [hsrc, hpending, hfsm, hhandle, State.Idle]
  | transmitting h f ht => exact ht.lifeCycle

/-! ### What a micro-step does in each phase -/

/-- What a micro-step makes of a state that meets the invariant: the rows of R110, and waiting. -/
inductive Moves (s : State) : State → Prop where
  | waits : Moves s s
  | opened (path : Path) (h : Handle) (os : List OpenAnswer) (fsm : s.fsm = .opening)
      (pending : s.pending = some (.openBus path)) (src : s.src = .romInit) (handle : s.handle = none) :
      Moves s { s with
        fsm := .addressed, handle := some h, pending := some (.configAddr h s.addr7), openAnswers := os
        hist := s.hist ++ [.opened path (.ok h)] }
  | openFailed (path : Path) (e : OsError) (os : List OpenAnswer) (fsm : s.fsm = .opening)
      (handle : s.handle = none) :
      Moves s { s with
        fsm := .closed, src := .none, pending := none, openAnswers := os
        hist := s.hist ++ [.opened path (.err e), .resp .deviceOpenFailed (some e)] }
  | configured (h : Handle) (cs : List ConfigAnswer) (fsm : s.fsm = .addressed) (src : s.src = .romInit)
      (handle : s.handle = some h) (program : 0 < programLength s) : Moves s (configured h s.addr7 cs s)
  | configuredEmpty (h : Handle) (cs : List ConfigAnswer) (fsm : s.fsm = .addressed) (handle : s.handle = some h) :
      Moves s (State.respond .ok none { configured h s.addr7 cs s with fsm := .ready })
  | addressingFailed (h : Handle) (e : OsError) (cs : List ConfigAnswer) (fsm : s.fsm = .addressed)
      (handle : s.handle = some h) :
      Moves s { s with
        fsm := .closed, handle := none, src := .none, pending := none, configAnswers := cs
        hist := s.hist ++ [.cfgAddr h s.addr7 (.err e), .close h, .resp .addressingFailed (some e)] }
  | issued (h : Handle) (f : RomEntry) (running : Transmitting h f s) :
      Moves s (s.issued h f)
  | entry (h : Handle) (f : RomEntry) (a : WriteAnswer) (as : List WriteAnswer) (running : Transmitting h f s)
      (src : s.src = .romInit ∨ s.src = .romBl) (more : s.seqPc + 1 < programLength s) : Moves s (s.advanced h f a as)
  | ended (h : Handle) (f : RomEntry) (a : WriteAnswer) (as : List WriteAnswer) (pc : Nat) (st : Status)
      (running : Transmitting h f s) :
      Moves s (State.respond st none { s.written h f a as with seqPc := pc, fsm := .ready })

section Transmission

variable {h : Handle} {f : RomEntry} {s : State}

theorem Transmitting.fsm (ht : Transmitting h f s) : s.fsm = .initializing ∨ s.fsm = .ready :=
  ht.source.imp And.right And.right

/-- Without an answer the write is in flight. -/
theorem Transmitting.busyStep_nil (ht : Transmitting h f s) (hanswers : s.writeAnswers = []) :
    busyStep s = .next (s.issued h f) := by
  obtain hp | hp := ht.pending
  · rw [busyStep_frame hp ht.frame, frameStep_eq, transmit_waits hp ht.handle ht.fsm hanswers, mapNext,
      continueCommand_of_pending rfl]
  · simp only [busyStep, hp, awaitWrite_nil h s.addr7 f.control f.payload hanswers, continueCommand_of_pending hp,
      State.issued]
    rw [← hp]

/-- The end of a transmission is the next entry, or Ready with the response. -/
theorem Transmitting.moves_continueCommand (ht : Transmitting h f s) (a : WriteAnswer) (as : List WriteAnswer) :
    Moves s (s.written h f a as).continueCommand := by
  have hprogram (hsrc : s.src = .romInit ∨ s.src = .romBl) :
      (s.written h f a as).continueCommand =
        if s.seqPc + 1 < programLength s then s.advanced h f a as else (s.advanced h f a as).endProgram := by
    rw [programLength_eq_entries hsrc]
    exact continueCommand_of_program (s := s.written h f a as) rfl hsrc
  obtain ⟨hsrc, _⟩ | ⟨hsrc | hsrc, hfsm⟩ := ht.source
  · rw [hprogram (.inl hsrc)]
    split
    · exact .entry h f a as ht (.inl hsrc) ‹_›
    · rw [endProgram_of_romInit (by exact hsrc)]
      exact .ended h f a as (s.seqPc + 1) .ok ht
  · have hended : (s.written h f a as).continueCommand =
        State.respond (transportStatus (s.written h f a as).aggFail) none
          { s.written h f a as with seqPc := s.seqPc, fsm := .ready } := by
      rw [← hfsm]
      simp [State.continueCommand, State.written, hsrc, endProgram_of_direct]
    rw [hended]
    exact .ended h f a as s.seqPc _ ht
  · rw [hprogram (.inr hsrc)]
    split
    · exact .entry h f a as ht (.inr hsrc) ‹_›
    · have hready : s.advanced h f a as = { s.written h f a as with seqPc := s.seqPc + 1, fsm := .ready } := by
        rw [← hfsm]; rfl
      rw [endProgram_of_romBl (by exact hsrc), hready]
      exact .ended h f a as (s.seqPc + 1) _ ht

end Transmission

/-- Every busy state that meets the invariant takes a micro-step of the table. -/
theorem Phase.busyStep_moves {s : State} (hs : Phase s) (hbusy : ¬ s.Idle) :
    ∃ t, busyStep s = .next t ∧ Moves s t := by
  cases hs with
  | resting hidle => exact absurd hidle hbusy
  | opening path hfsm hpending hsrc hhandle =>
    refine ⟨s.awaitOpen path, by simp only [busyStep, hpending], ?_⟩
    match hanswers : s.openAnswers with
    | [] => rw [awaitOpen_nil path hanswers]; exact .waits
    | .ok h :: os => rw [awaitOpen_ok path hanswers]; exact .opened path h os hfsm hpending hsrc hhandle
    | .err e :: os => rw [awaitOpen_err path hanswers]; exact .openFailed path e os hfsm hhandle
  | addressed h hfsm hpending hsrc hhandle =>
    refine ⟨s.awaitConfig h s.addr7, by simp only [busyStep, hpending], ?_⟩
    match hanswers : s.configAnswers with
    | [] => rw [awaitConfig_nil h s.addr7 hanswers]; exact .waits
    | .ok :: cs =>
      rw [awaitConfig_ok h s.addr7 hanswers]
      split
      · exact .configured h cs hfsm hsrc hhandle ‹_›
      · rw [endProgram_of_romInit (by exact hsrc)]
        exact .configuredEmpty h cs hfsm hhandle
    | .err e :: cs => rw [awaitConfig_err h s.addr7 hanswers]; exact .addressingFailed h e cs hfsm hhandle
  | transmitting h f hrun =>
    match hanswers : s.writeAnswers with
    | [] => exact ⟨_, hrun.busyStep_nil hanswers, .issued h f hrun⟩
    | a :: as =>
      exact ⟨_, busyStep_answered hrun.pending hrun.fsm hrun.handle hrun.frame hanswers, hrun.moves_continueCommand a as⟩

theorem LifeCycle.moves {s t : State} (hs : LifeCycle s) (hbusy : ¬ s.Idle) (h : busyStep s = .next t) : Moves s t := by
  obtain ⟨u, hu, hmoves⟩ := hs.phase.busyStep_moves hbusy
  rw [h, next_inj] at hu
  exact hu ▸ hmoves

/-! ### The invariant is kept -/

theorem Moves.phase {s t : State} (h : Moves s t) (hs : Phase s) : Phase t := by
  cases h with
  | waits => exact hs
  | opened path h os hfsm hpending hsrc hhandle => exact .addressed h rfl rfl hsrc rfl
  | openFailed path e os hfsm hhandle => exact .resting ⟨rfl, rfl⟩ (.inl ⟨.inr rfl, hhandle⟩)
  | configured h cs hfsm hsrc hhandle hprogram =>
    obtain ⟨f, hf⟩ := selectFrame_of_seqPc_lt (s := Machine.configured h s.addr7 cs s) (.inl hsrc) hprogram
    exact .transmitting h f ⟨hhandle, .inl ⟨hsrc, rfl⟩, hf, .inl rfl⟩
  | configuredEmpty h cs hfsm hhandle =>
    exact .resting ⟨rfl, rfl⟩ (.inr ⟨rfl, fun hnone => by cases hhandle.symm.trans hnone⟩)
  | addressingFailed h e cs hfsm hhandle => exact .resting ⟨rfl, rfl⟩ (.inl ⟨.inr rfl, rfl⟩)
  | issued h f ht => exact .transmitting h f ⟨ht.handle, ht.source, ht.frame, .inr rfl⟩
  | entry h f a as ht hsrc hmore =>
    obtain ⟨g, hg⟩ := selectFrame_of_seqPc_lt (s := s.advanced h f a as) hsrc hmore
    exact .transmitting h g ⟨ht.handle, ht.source, hg, .inl rfl⟩
  | ended h f a as pc st ht =>
    exact .resting ⟨rfl, rfl⟩ (.inr ⟨rfl, fun hnone => by cases ht.handle.symm.trans hnone⟩)

theorem LifeCycle.of_busyStep {s t : State} (hs : LifeCycle s) (hbusy : ¬ s.Idle) (h : busyStep s = .next t) :
    LifeCycle t := ((hs.moves hbusy h).phase hs.phase).lifeCycle

/-- What an idle state that meets the invariant holds. -/
theorem LifeCycle.resting {s : State} (hs : LifeCycle s) (hidle : s.Idle) :
    (s.fsm = .unopened ∨ s.fsm = .closed) ∧ s.handle = none ∨ s.fsm = .ready ∧ s.handle ≠ none := by
  have hheld := hs.handle_held
  obtain hfsm | hfsm | hfsm := hs.idle_rests hidle
  · exact .inl ⟨.inl hfsm, by simpa [hfsm] using hheld⟩
  · exact .inr ⟨hfsm, by simp [hheld, hfsm]⟩
  · exact .inl ⟨.inr hfsm, by simpa [hfsm] using hheld⟩

theorem LifeCycle.of_resting {s : State} (hidle : s.Idle)
    (hfsm : (s.fsm = .unopened ∨ s.fsm = .closed) ∧ s.handle = none ∨ s.fsm = .ready ∧ s.handle ≠ none) :
    LifeCycle s := (Phase.resting hidle hfsm).lifeCycle

end Sys2Proof.Machine
end

section
/-! SUPPORT. The invariants along a step (10_state.md R12, R13, R32): the life cycle, the balance of the handles, the
latched address. -/

namespace Sys2Proof.Machine

/-! ### The first states of the commands -/

theorem LifeCycle.accept {u : State} (hu : LifeCycle u) (hidle : u.Idle) (rest : List Word) (arg : Byte) :
    LifeCycle (State.accept arg { u with host := rest }) := .of_resting hidle (hu.resting hidle)

theorem LifeCycle.respond {u : State} (hu : LifeCycle u) (hidle : u.Idle) (st : Status) :
    LifeCycle (u.respond st none) := .of_resting ⟨rfl, hidle.2⟩ (hu.resting hidle)

theorem lifeCycle_release {u : State} (hidle : u.Idle) (h : Handle) : LifeCycle ((u.release h).respond .ok none) := by
  rw [release_eq]
  exact .of_resting ⟨rfl, hidle.2⟩ (.inl ⟨.inr rfl, rfl⟩)

theorem LifeCycle.handle_of_ready {u : State} (hu : LifeCycle u) (hready : u.fsm = .ready) : ∃ h, u.handle = some h :=
  Option.ne_none_iff_exists'.mp (hu.handle_held.mpr (.inr (.inr hready)))

theorem LifeCycle.handle_of_unopened {u : State} (hu : LifeCycle u) (hfsm : u.fsm = .unopened) : u.handle = none := by
  simpa [hfsm] using hu.handle_held

theorem LifeCycle.beginSend {u : State} (hu : LifeCycle u) (hidle : u.Idle) (hready : u.fsm = .ready) (rs : RegSelect) :
    LifeCycle (u.beginSend rs) := by
  obtain ⟨h, hhandle⟩ := hu.handle_of_ready hready
  exact Phase.lifeCycle (.transmitting h ⟨sendControl rs, u.opnd⟩
    ⟨hhandle, .inr ⟨.inl rfl, hready⟩, rfl, .inl hidle.2⟩)

theorem LifeCycle.beginBacklight {u : State} (hu : LifeCycle u) (hidle : u.Idle) (hready : u.fsm = .ready) :
    LifeCycle u.beginBacklight := by
  obtain ⟨h, hhandle⟩ := hu.handle_of_ready hready
  exact Phase.lifeCycle (.transmitting h ⟨0x80, 0x2A⟩
    ⟨hhandle, .inr ⟨.inr rfl, hready⟩, rfl, .inl hidle.2⟩)

theorem LifeCycle.beginInit {u : State} (hu : LifeCycle u) (hfsm : u.fsm = .unopened) : LifeCycle u.beginInit :=
  Phase.lifeCycle (.opening u.cfg.path rfl rfl rfl (hu.handle_of_unopened hfsm))

/-- To show that every step from a state that meets the invariant keeps a property: what a command begins with, and each
row of the micro-steps' table, keep it. -/
theorem LifeCycle.step_induct {P : State → Prop}
    (accept : ∀ u rest arg, P u → u.Idle → P (State.accept arg { u with host := rest }))
    (respond : ∀ u st, P u → u.Idle → P (u.respond st none))
    (release : ∀ u h, P u → u.handle = some h → P ((u.release h).respond .ok none))
    (send : ∀ u rs, P u → u.fsm = .ready → P (u.beginSend rs))
    (backlight : ∀ u, P u → u.fsm = .ready → P u.beginBacklight)
    (init : ∀ u, P u → u.fsm = .unopened → P u.beginInit)
    (moves : ∀ u v, LifeCycle u → P u → Moves u v → P v)
    {s t : State} (hs : LifeCycle s) (hP : P s) (h : step s = .next t) : LifeCycle t ∧ P t := by
  refine Machine.step_induct (P := fun u => LifeCycle u ∧ P u)
    (fun u w rest arg hu hidle _ => ⟨hu.1.accept hidle rest arg, accept u rest arg hu.2 hidle⟩)
    (fun u st hu hidle => ⟨hu.1.respond hidle st, respond u st hu.2 hidle⟩)
    (fun u h hu hidle hhandle => ⟨lifeCycle_release hidle h, release u h hu.2 hhandle⟩)
    (fun u rs hu hidle hready => ⟨hu.1.beginSend hidle hready rs, send u rs hu.2 hready⟩)
    (fun u hu hidle hready => ⟨hu.1.beginBacklight hidle hready, backlight u hu.2 hready⟩)
    (fun u hu hidle hfsm => ⟨hu.1.beginInit hfsm, init u hu.2 hfsm⟩)
    (fun u v hu hbusy hv => ⟨hu.1.of_busyStep hbusy hv, moves u v hu.1 hu.2 (hu.1.moves hbusy hv)⟩) ⟨hs, hP⟩ h

/-- Settles O48: the first states of the commands meet the invariant, and the rows of a micro-step keep it. -/
theorem stepKeepsTheInvariant : Obligations.StepKeepsTheInvariant := by
  intro s t hs h
  refine (hs.step_induct (P := fun _ => True) ?_ ?_ ?_ ?_ ?_ ?_ ?_ trivial h).1 <;> intros <;> trivial

/-- Settles O47: reset is a resting state. -/
theorem invariantHoldsAtReset : Obligations.InvariantHoldsAtReset := .of_resting ⟨rfl, rfl⟩ (.inl ⟨.inl rfl, rfl⟩)

/-- Settles O57: idle in Ready a handle would be held. -/
theorem cleanEndIsUnopenedOrClosed : Obligations.CleanEndIsUnopenedOrClosed := by
  rintro s hs ⟨_, hidle, hhandle⟩
  obtain ⟨hfsm, _⟩ | ⟨_, hheld⟩ := hs.resting hidle
  · exact hfsm
  · exact absurd hhandle hheld

/-! ### A step completes -/

theorem runToRest_completes : ∀ (n : Nat) (s : State), LifeCycle s → Completes (runToRest n s)
  | 0, s, _ => ⟨s, rfl⟩
  | n + 1, s, hs => by
    by_cases hrest : s.AtRest
    · exact ⟨s, runToRest_of_rest hrest (n + 1)⟩
    · have hbusy : ¬ s.Idle := fun hidle => hrest (.inl hidle)
      obtain ⟨u, hu, _⟩ := hs.phase.busyStep_moves hbusy
      rw [runToRest_succ hrest, hu]
      exact runToRest_completes n u (hs.of_busyStep hbusy hu)

/-- The first state of a command meets the invariant. -/
theorem LifeCycle.commandStart {s : State} (hs : LifeCycle s) (hidle : s.Idle) (i : Instr) :
    LifeCycle (commandStart i s) := by
  have haccept (arg : Byte) : LifeCycle (s.accept arg) := hs.accept hidle s.host arg
  cases i with
  | init =>
    simp only [Machine.commandStart]
    split
    · exact (haccept 0).beginInit ‹_›
    · exact (haccept 0).respond hidle .badState
  | sendi b | sendd b =>
    simp only [Machine.commandStart]
    split
    · exact (haccept b).beginSend hidle ‹_› _
    · exact (haccept b).respond hidle .notReady
  | bl on =>
    simp only [Machine.commandStart]
    split
    · exact (haccept _).beginBacklight hidle ‹_›
    · exact (haccept _).respond hidle .notReady
  | shut =>
    simp only [Machine.commandStart]
    split
    · exact (haccept 0).respond hidle .ok
    · exact lifeCycle_release (u := s.accept 0) hidle _
  | wrIr p | wrDr p => exact hs

/-- Settles O49: a command's run and a micro-step meet `Transmit`'s precondition throughout. -/
theorem invariantStatesAlwaysStep : Obligations.InvariantStatesAlwaysStep := by
  intro s hs
  by_cases hidle : s.Idle
  · cases hhost : s.host with
    | nil => exact ⟨s, step_of_no_word hidle hhost⟩
    | cons w rest =>
      cases hdecode : decodeCommand w with
      | error e => exact ⟨_, step_of_illegal hidle hhost hdecode⟩
      | ok i =>
        have htaken : LifeCycle { s with host := rest } := .of_resting hidle (hs.resting hidle)
        rw [stepRunsThePresentedCommand s w rest i hidle hhost hdecode,
          exec_of_idle (s := { s with host := rest }) (decodeCommand_ok hdecode) hidle]
        exact runToRest_completes _ _ (htaken.commandStart hidle i)
  · obtain ⟨t, ht, _⟩ := hs.phase.busyStep_moves hidle
    exact ⟨t, (step_of_running hidle).trans ht⟩

/-! ### The handles -/

section Transcript

variable (h : Handle) (a7 : Addr7) (v : Variant) (suppress : Bool) (f : RomEntry) (a : WriteAnswer)

@[simp] theorem closedHandles_transcript_single : closedHandles (transcript h a7 v suppress [f] [a]) = [] := by
  rw [transcript_single]; cases a.failed <;> simp

@[simp] theorem openedHandles_transcript_single : openedHandles (transcript h a7 v suppress [f] [a]) = [] := by
  rw [transcript_single]; cases a.failed <;> simp

end Transcript

/-- What opens and closes no handle keeps the balance. -/
theorem HandleBalance.of_same {u v : State} (hu : HandleBalance u) (hopened : openedHandles v.hist = openedHandles u.hist)
    (hclosed : closedHandles v.hist = closedHandles u.hist) (hhandle : v.handle = u.handle)
    (hfsm : v.fsm = .unopened ∨ v.fsm = .opening → u.fsm = .unopened ∨ u.fsm = .opening) : HandleBalance v where
  balance := by rw [hopened, hclosed, hhandle]; exact hu.balance
  at_most_one := by rw [hopened]; exact hu.at_most_one
  none_before h := by rw [hopened]; exact hu.none_before (hfsm h)

/-- Closing the handle held moves it from the end of the one list to the end of the other. -/
theorem HandleBalance.of_closed {u v : State} {h : Handle} (hu : HandleBalance u) (hheld : u.handle = some h)
    (hopened : openedHandles v.hist = openedHandles u.hist) (hclosed : closedHandles v.hist = closedHandles u.hist ++ [h])
    (hhandle : v.handle = none) (hfsm : v.fsm = .closed) : HandleBalance v where
  balance := by rw [hopened, hclosed, hhandle, ← hu.balance, hheld]; simp
  at_most_one := by rw [hopened]; exact hu.at_most_one
  none_before h := by simp [hfsm] at h

theorem HandleBalance.release {u : State} {h : Handle} (hu : HandleBalance u) (hheld : u.handle = some h) :
    HandleBalance ((u.release h).respond .ok none) := by
  rw [release_eq]
  refine hu.of_closed hheld ?_ ?_ rfl rfl <;> cases u.hasStop <;> simp

theorem HandleBalance.moves {u v : State} (hu : HandleBalance u) (h : Moves u v) : HandleBalance v := by
  cases h with
  | waits => exact hu
  | opened path h os hfsm hpending hsrc hhandle =>
    have hopened := hu.none_before (.inr hfsm)
    have hclosed : closedHandles u.hist = [] := by simpa [hopened, hhandle] using hu.balance
    constructor <;> simp [hopened, hclosed]
  | openFailed path e os hfsm hhandle => exact hu.of_same (by simp) (by simp) rfl (by simp)
  | configured h cs hfsm hsrc hhandle hprogram =>
    exact hu.of_same (by simp [configured]) (by simp [configured]) rfl (by simp [configured])
  | configuredEmpty h cs hfsm hhandle =>
    exact hu.of_same (by simp [configured]) (by simp [configured]) rfl (by simp)
  | addressingFailed h e cs hfsm hhandle => exact hu.of_closed hhandle (by simp) (by simp) rfl rfl
  | issued h f ht => exact hu.of_same rfl rfl rfl id
  | entry h f a as ht hsrc hmore =>
    exact hu.of_same (by simp [State.advanced, State.written]) (by simp [State.advanced, State.written]) rfl id
  | ended h f a as pc st ht =>
    exact hu.of_same (by simp [State.written]) (by simp [State.written]) rfl (by simp)

/-- Settles O50, by what a command begins with and the rows of a micro-step. -/
theorem handleIsReleasedExactlyOnce : Obligations.HandleIsReleasedExactlyOnce := by
  refine ⟨⟨rfl, Nat.zero_le 1, fun _ => rfl⟩, fun s t hs hbalance hstep => ?_⟩
  refine (hs.step_induct ?accept ?respond ?release ?send ?backlight ?init ?moves hbalance hstep).2
  case accept => exact fun u rest arg hu _ => hu.of_same rfl rfl rfl id
  case respond => exact fun u st hu _ => hu.of_same (by simp) (by simp) rfl id
  case release => exact fun u h hu hheld => hu.release hheld
  case send => exact fun u rs hu _ => hu.of_same rfl rfl rfl id
  case backlight => exact fun u hu _ => hu.of_same rfl rfl rfl id
  case init => exact fun u hu hfsm => hu.of_same rfl rfl rfl fun _ => .inl hfsm
  case moves => exact fun u v _ hu h => hu.moves h

/-! ### The latched address -/

/-- New events whose writes go to the address latched before and after. -/
theorem AddressHeld.of_append {u v : State} {es : List Event} (hu : AddressHeld u) (hhist : v.hist = u.hist ++ es)
    (haddr : v.addr7 = u.addr7) (hnew : ∀ e ∈ es, ∀ a7, e.writeAddr? = some a7 → a7 = u.addr7)
    (hfsm : v.fsm = .unopened → u.fsm = .unopened ∧ ∀ e ∈ es, e.writeAddr? = none) : AddressHeld v where
  same e he a7 ha := by
    rw [hhist, List.mem_append] at he
    rw [haddr]
    exact he.elim (fun he => hu.same e he a7 ha) fun he => hnew e he a7 ha
  none_before hv e he := by
    obtain ⟨hunopened, hquiet⟩ := hfsm hv
    rw [hhist, List.mem_append] at he
    exact he.elim (hu.none_before hunopened e) (hquiet e)

/-- New events none of which is a write. -/
theorem AddressHeld.of_quiet {u v : State} {es : List Event} (hu : AddressHeld u) (hhist : v.hist = u.hist ++ es)
    (haddr : v.addr7 = u.addr7) (hquiet : ∀ e ∈ es, e.writeAddr? = none) (hfsm : v.fsm = .unopened → u.fsm = .unopened) :
    AddressHeld v :=
  hu.of_append hhist haddr (fun e he a7 ha => by simp [hquiet e he] at ha) fun hv => ⟨hfsm hv, hquiet⟩

theorem writeAddr_of_mem_transcript {h : Handle} {a7 b7 : Addr7} {v : Variant} {suppress : Bool} {f : RomEntry}
    {a : WriteAnswer} {e : Event} (he : e ∈ transcript h a7 v suppress [f] [a]) (hb : e.writeAddr? = some b7) :
    b7 = a7 := by
  rw [transcript_single] at he
  obtain rfl | he := List.mem_cons.mp he
  · exact (Option.some.inj hb).symm
  · split at he
    · rw [List.mem_singleton.mp he] at hb; cases hb
    · cases he

theorem Transmitting.not_unopened {h : Handle} {f : RomEntry} {s : State} (ht : Transmitting h f s) :
    s.fsm ≠ .unopened := by
  obtain hfsm | hfsm := ht.fsm <;> simp [hfsm]

theorem AddressHeld.moves {u v : State} (hu : AddressHeld u) (h : Moves u v) : AddressHeld v := by
  cases h with
  | waits => exact hu
  | opened path h os hfsm hpending hsrc hhandle => exact hu.of_quiet rfl rfl (by simp [Event.writeAddr?]) (by simp)
  | openFailed path e os hfsm hhandle => exact hu.of_quiet rfl rfl (by simp [Event.writeAddr?]) (by simp)
  | configured h cs hfsm hsrc hhandle hprogram =>
    exact hu.of_quiet rfl rfl (by simp [Event.writeAddr?]) (by simp [configured])
  | configuredEmpty h cs hfsm hhandle =>
    exact hu.of_quiet (List.append_assoc _ _ _) rfl (by simp [Event.writeAddr?]) (by simp)
  | addressingFailed h e cs hfsm hhandle => exact hu.of_quiet rfl rfl (by simp [Event.writeAddr?]) (by simp)
  | issued h f ht => exact hu.of_quiet (List.append_nil _).symm rfl (by simp) id
  | entry h f a as ht hsrc hmore =>
    exact hu.of_append rfl rfl (fun e he a7 ha => writeAddr_of_mem_transcript he ha)
      fun hv => absurd hv ht.not_unopened
  | ended h f a as pc st ht =>
    refine hu.of_append (List.append_assoc _ _ _) rfl (fun e he a7 ha => ?_) fun hv => by cases hv
    obtain he | he := List.mem_append.mp he
    · exact writeAddr_of_mem_transcript he ha
    · rw [List.mem_singleton.mp he] at ha; cases ha

/-- Settles O51; INIT, which latches the address, begins with no write in the history. -/
theorem everyWriteGoesToTheLatchedAddress : Obligations.EveryWriteGoesToTheLatchedAddress := by
  refine ⟨⟨nofun, nofun⟩, fun s t hs hheld hstep => ?_⟩
  refine (hs.step_induct ?accept ?respond ?release ?send ?backlight ?init ?moves hheld hstep).2
  case accept => exact fun u rest arg hu _ => ⟨hu.same, hu.none_before⟩
  case respond => exact fun u st hu _ => hu.of_quiet rfl rfl (by simp [Event.writeAddr?]) id
  case release =>
    intro u h hu _
    rw [release_eq]
    refine hu.of_quiet (es := (if u.hasStop then [.stop h] else []) ++ [.close h, .resp .ok none])
      (by simp) rfl ?_ (by simp)
    cases u.hasStop <;> simp [Event.writeAddr?]
  case send => exact fun u rs hu _ => ⟨hu.same, hu.none_before⟩
  case backlight => exact fun u hu _ => ⟨hu.same, hu.none_before⟩
  case init =>
    intro u hu hfsm
    exact ⟨fun e he a7 ha => by simp [hu.none_before hfsm e he] at ha, nofun⟩
  case moves => exact fun u v _ hu h => hu.moves h

end Sys2Proof.Machine
end

section
/-! SUPPORT. What no micro-step writes: the latched address and variant, the inputs, the parameters, the words of HOST
(10_state.md R13, R14, R21, R22, 20_memory.md R55). -/

namespace Sys2Proof.Machine

/-- The fields that only the acceptance of a command writes, and those that nothing writes. -/
structure Kept where
  addr7 : Addr7
  variant : Variant
  cfg : ConfigInputs
  hasStop : Bool
  romInit : List RomEntry
  host : List Word

def State.kept (s : State) : Kept := ⟨s.addr7, s.variant, s.cfg, s.hasStop, s.romInit, s.host⟩

theorem endProgram_kept (s : State) : s.endProgram.kept = s.kept := by
  obtain ⟨_, heq⟩ | ⟨_, heq⟩ | ⟨_, heq⟩ := endProgram_cases s <;> rw [heq] <;> rfl

theorem continueCommand_kept (s : State) : s.continueCommand.kept = s.kept := by
  obtain ⟨_, heq⟩ | ⟨_, _, heq⟩ | ⟨_, _, _, heq⟩ | ⟨_, _, _, heq⟩ := continueCommand_cases s <;> rw [heq]
  · exact endProgram_kept s
  · rfl
  · exact endProgram_kept _

theorem awaitWrite_kept (h : Handle) (a7 : Addr7) (c p : Byte) (s : State) : (s.awaitWrite h a7 c p).kept = s.kept := by
  obtain ⟨_, heq⟩ | ⟨a, rest, _, heq⟩ := awaitWrite_cases h a7 c p s <;> rw [heq]
  rw [completeWrite_eq]; rfl

theorem awaitOpen_kept (path : Path) (s : State) : (s.awaitOpen path).kept = s.kept := by
  obtain ⟨_, heq⟩ | ⟨_, _, _, heq⟩ | ⟨_, _, _, heq⟩ := awaitOpen_cases path s <;> rw [heq] <;> rfl

theorem awaitConfig_kept (h : Handle) (a7 : Addr7) (s : State) : (s.awaitConfig h a7).kept = s.kept := by
  obtain ⟨_, heq⟩ | ⟨rest, _, heq⟩ | ⟨_, _, _, heq⟩ := awaitConfig_cases h a7 s <;> rw [heq]
  · split
    · rfl
    · exact endProgram_kept _
  · rfl

theorem busyStep_kept {s t : State} (h : busyStep s = .next t) : t.kept = s.kept := by
  obtain ⟨path, _, rfl⟩ | ⟨hd, a7, _, rfl⟩ | ⟨hd, a7, c, p, _, rfl⟩ | ⟨_, _, rfl⟩ | ⟨hd, f, _, _, _, _, rfl⟩ :=
    busyStep_cases h
  · exact awaitOpen_kept path s
  · exact awaitConfig_kept hd a7 s
  · rw [continueCommand_kept, awaitWrite_kept]
  · exact endProgram_kept s
  · rw [continueCommand_kept, awaitWrite_kept]; rfl

theorem runToRest_kept {s t : State} (n : Nat) (h : runToRest n s = .next t) : t.kept = s.kept :=
  runToRest_induct (P := fun u => u.kept = s.kept) (fun _ _ hu _ hv => (busyStep_kept hv).trans hu) n s t rfl h

/-- A step is a wait, an illegal word's answer, a micro-step, or the run of a command from its first state. -/
theorem step_kept {s t : State} (h : step s = .next t) :
    (s.Idle ∧ s.host = [] ∧ t = s) ∨
    (s.Idle ∧ ∃ w rest e, s.host = w :: rest ∧ decodeCommand w = .error e ∧
      t = answerIllegal w { s with host := rest }) ∨
    (¬ s.Idle ∧ t.kept = s.kept) ∨
    (s.Idle ∧ ∃ w rest i, s.host = w :: rest ∧ decodeCommand w = .ok i ∧
      t.kept = (commandStart i { s with host := rest }).kept) := by
  obtain hwait | ⟨hidle, w, rest, i, hhost, hdecode, hexec⟩ | hillegal | ⟨hbusy, hmicro⟩ := step_cases h
  · exact .inl hwait
  · rw [exec_of_idle (s := { s with host := rest }) (decodeCommand_ok hdecode) hidle] at hexec
    exact .inr (.inr (.inr ⟨hidle, w, rest, i, hhost, hdecode, runToRest_kept _ hexec⟩))
  · exact .inr (.inl hillegal)
  · exact .inr (.inr (.inl ⟨hbusy, busyStep_kept hmicro⟩))

theorem release_kept (h : Handle) (s : State) : (s.release h).kept = s.kept := by rw [release_eq]; rfl

/-- Of the kept fields a command's first state writes only INIT's two registers. -/
theorem commandStart_kept (i : Instr) (s : State) :
    (commandStart i s).kept = s.kept ∨
    i = .init ∧ s.fsm = .unopened ∧
      (commandStart i s).kept =
        ⟨maskAddr s.cfg.addr, s.cfg.variant, s.cfg, s.hasStop, s.romInit, s.host⟩ := by
  cases i with
  | init =>
    rw [commandStart]
    split
    next hfsm => exact .inr ⟨rfl, hfsm, rfl⟩
    next => exact .inl rfl
  | sendi b | sendd b | bl on => rw [commandStart]; split <;> exact .inl rfl
  | shut =>
    rw [commandStart]
    split
    · exact .inl rfl
    · exact .inl (release_kept _ (s.accept 0))
  | wrIr p | wrDr p => exact .inl rfl

/-- Settles O56: a busy CORE takes a micro-step, which keeps HOST's words. -/
theorem busyCoreTakesNoCommand : Obligations.BusyCoreTakesNoCommand := by
  intro s t hbusy h
  rw [step_of_running hbusy] at h
  exact congrArg Kept.host (busyStep_kept h)

/-- Settles O52: the first state of INIT is the only one that writes the two registers. -/
theorem onlyInitWritesAddressAndVariant : Obligations.OnlyInitWritesAddressAndVariant := by
  intro s t h
  obtain ⟨_, _, rfl⟩ | ⟨_, w, rest, e, _, _, rfl⟩ | ⟨_, hkept⟩ | ⟨hidle, w, rest, i, hhost, hdecode, hkept⟩ := step_kept h
  · exact .inl ⟨rfl, rfl⟩
  · exact .inl ⟨rfl, rfl⟩
  · exact .inl ⟨congrArg Kept.addr7 hkept, congrArg Kept.variant hkept⟩
  · obtain hsame | ⟨rfl, hfsm, hlatched⟩ := commandStart_kept i { s with host := rest }
    · rw [hsame] at hkept
      exact .inl ⟨congrArg Kept.addr7 hkept, congrArg Kept.variant hkept⟩
    · rw [hlatched] at hkept
      have hword : s.host = encode .init :: rest := by rw [encode_of_decodeCommand hdecode, hhost]
      exact .inr ⟨hidle, hfsm, ⟨rest, hword⟩, congrArg Kept.addr7 hkept, congrArg Kept.variant hkept⟩

/-- Settles O55: no first state of a command and no micro-step writes a ROM, and MUX reads the entry at the index. -/
theorem romsAreNeverWritten : Obligations.RomsAreNeverWritten := by
  refine ⟨fun s t h => ?_, fun s hsrc => ?_, fun s hsrc hindex => ?_, fun s e hsrc hindex hentry => ?_⟩
  · have hfixed (u : State) (hu : t.kept = u.kept) : t.romInit = u.romInit ∧ t.hasStop = u.hasStop ∧ t.cfg = u.cfg :=
      ⟨congrArg Kept.romInit hu, congrArg Kept.hasStop hu, congrArg Kept.cfg hu⟩
    obtain ⟨_, _, rfl⟩ | ⟨_, w, rest, e, _, _, rfl⟩ | ⟨_, hkept⟩ | ⟨_, w, rest, i, _, _, hkept⟩ := step_kept h
    · exact ⟨rfl, rfl, rfl⟩
    · exact ⟨rfl, rfl, rfl⟩
    · exact hfixed s hkept
    · obtain hsame | ⟨_, _, hlatched⟩ := commandStart_kept i { s with host := rest }
      · exact hfixed { s with host := rest } (hkept.trans hsame)
      · exact hfixed { s with host := rest, addr7 := maskAddr s.cfg.addr, variant := s.cfg.variant }
          (hkept.trans hlatched)
  · simp only [selectFrame, hsrc]
  · simp only [selectFrame, hsrc, blEntry, if_neg hindex]
    cases blProgram[s.seqPc]? <;> rfl
  · simp only [selectFrame, hsrc, blEntry, hentry, if_pos hindex]
    rfl

end Sys2Proof.Machine
end

section
/-! SUPPORT. The suppression latch and the severities of the reports (10_state.md R15, 40_encoder.md R82). -/

namespace Sys2Proof.Machine

/-- From `s` to `t` the history has grown by events whose failures alone have set the latch and chosen the severities. -/
def LatchLaw (s t : State) : Prop :=
  ∃ es, t.hist = s.hist ++ es ∧ t.suppress = (s.suppress || es.any Event.failedWrite) ∧
    txSeverities es = latchedSeverities s.suppress (es.countP Event.failedWrite)

theorem latchedSeverities_true (n : Nat) : latchedSeverities true n = List.replicate n .debug := by
  cases n <;> rfl

/-- Once there was a failure the latch is set, so the severities of two runs of failures are those of one. -/
theorem latchedSeverities_add (suppress : Bool) (m n : Nat) :
    latchedSeverities suppress (m + n) =
      latchedSeverities suppress m ++ latchedSeverities (suppress || decide (0 < m)) n := by
  cases m with
  | zero => simp [latchedSeverities]
  | succ m =>
    rw [Nat.add_right_comm]
    have hset : (suppress || decide (0 < m + 1)) = true := by simp
    rw [hset, latchedSeverities_true]
    simp [latchedSeverities, List.replicate_append_replicate]

theorem any_failedWrite (es : List Event) : es.any Event.failedWrite = decide (0 < es.countP Event.failedWrite) := by
  rw [Bool.eq_iff_iff]
  simp [List.countP_pos_iff]

theorem LatchLaw.refl (s : State) : LatchLaw s s := ⟨[], by simp, by simp, rfl⟩

theorem LatchLaw.trans {s u t : State} (hsu : LatchLaw s u) (hut : LatchLaw u t) : LatchLaw s t := by
  obtain ⟨es, hes, hsupp, hsev⟩ := hsu
  obtain ⟨fs, hfs, hsupp', hsev'⟩ := hut
  refine ⟨es ++ fs, by rw [hfs, hes, List.append_assoc], ?_, ?_⟩
  · rw [hsupp', hsupp, List.any_append, Bool.or_assoc]
  · rw [txSeverities_append, hsev, hsev', hsupp, any_failedWrite, List.countP_append, latchedSeverities_add]

/-- Events without a failed write and without a failure report leave the latch. -/
theorem LatchLaw.of_quiet {s t : State} (es : List Event) (hhist : t.hist = s.hist ++ es)
    (hsupp : t.suppress = s.suppress) (hcount : es.countP Event.failedWrite = 0) (hsev : txSeverities es = []) :
    LatchLaw s t :=
  ⟨es, hhist, by rw [hsupp, any_failedWrite, hcount]; simp, by rw [hsev, hcount]; rfl⟩

/-- An update of neither the latch nor the history. -/
theorem LatchLaw.of_same {s t : State} (hhist : t.hist = s.hist) (hsupp : t.suppress = s.suppress) : LatchLaw s t :=
  .of_quiet [] (by simp [hhist]) hsupp rfl rfl

theorem respond_latchLaw (st : Status) (info : Option OsError) (s : State) : LatchLaw s (s.respond st info) :=
  .of_quiet [.resp st info] rfl rfl rfl rfl

theorem release_latchLaw (h : Handle) (s : State) : LatchLaw s (s.release h) := by
  rw [release_eq]
  cases hs : s.hasStop
  · exact .of_quiet [.close h] (by simp) rfl rfl rfl
  · exact .of_quiet [.stop h, .close h] (by simp) rfl rfl rfl

theorem endProgram_latchLaw (s : State) : LatchLaw s s.endProgram := by
  obtain ⟨_, heq⟩ | ⟨_, heq⟩ | ⟨_, heq⟩ := endProgram_cases s <;> rw [heq]
  · exact .refl s
  · exact .of_quiet [.resp .ok none] rfl rfl rfl rfl
  · exact respond_latchLaw _ _ s

theorem continueCommand_latchLaw (s : State) : LatchLaw s s.continueCommand := by
  have hindex : LatchLaw s { s with seqPc := s.seqPc + 1 } := .of_same rfl rfl
  obtain ⟨_, heq⟩ | ⟨_, _, heq⟩ | ⟨_, _, _, heq⟩ | ⟨_, _, _, heq⟩ := continueCommand_cases s <;> rw [heq]
  · exact .refl s
  · exact endProgram_latchLaw s
  · exact hindex
  · exact hindex.trans (endProgram_latchLaw _)

/-- An answered write: a failure sets the latch and has one report, by the latch as it stood. -/
theorem awaitWrite_latchLaw (h : Handle) (a7 : Addr7) (c p : Byte) (s : State) : LatchLaw s (s.awaitWrite h a7 c p) := by
  obtain ⟨_, heq⟩ | ⟨a, rest, _, heq⟩ := awaitWrite_cases h a7 c p s <;> rw [heq]
  · exact .refl s
  · rw [completeWrite_eq]
    refine ⟨_, rfl, ?_, ?_⟩ <;> cases ha : a.failed <;>
      simp [Event.failedWrite, ha, latchedSeverities, failSeverity]

theorem awaitOpen_latchLaw (path : Path) (s : State) : LatchLaw s (s.awaitOpen path) := by
  obtain ⟨_, heq⟩ | ⟨hd, _, _, heq⟩ | ⟨e, _, _, heq⟩ := awaitOpen_cases path s <;> rw [heq]
  · exact .refl s
  · exact .of_quiet _ rfl rfl rfl rfl
  · exact .of_quiet _ rfl rfl rfl rfl

theorem awaitConfig_latchLaw (h : Handle) (a7 : Addr7) (s : State) : LatchLaw s (s.awaitConfig h a7) := by
  obtain ⟨_, heq⟩ | ⟨rest, _, heq⟩ | ⟨e, rest, _, heq⟩ := awaitConfig_cases h a7 s <;> rw [heq]
  · exact .refl s
  · have hreported : LatchLaw s (configured h a7 rest s) := .of_quiet _ rfl rfl rfl rfl
    split
    · exact hreported
    · exact hreported.trans (endProgram_latchLaw _)
  · exact .of_quiet _ rfl rfl rfl rfl

theorem busyStep_latchLaw {s t : State} (h : busyStep s = .next t) : LatchLaw s t := by
  obtain ⟨path, _, rfl⟩ | ⟨hd, a7, _, rfl⟩ | ⟨hd, a7, c, p, _, rfl⟩ | ⟨_, _, rfl⟩ | ⟨hd, f, _, _, _, _, rfl⟩ :=
    busyStep_cases h
  · exact awaitOpen_latchLaw path s
  · exact awaitConfig_latchLaw hd a7 s
  · exact (awaitWrite_latchLaw hd a7 c p s).trans (continueCommand_latchLaw _)
  · exact endProgram_latchLaw s
  · have hissued : LatchLaw s (s.issued hd f) := .of_same rfl rfl
    exact (hissued.trans (awaitWrite_latchLaw ..)).trans (continueCommand_latchLaw _)

/-- Settles O54, every operation of a step being under the law. -/
theorem latchIsSetOnceAndDowngradesReports : Obligations.LatchIsSetOnceAndDowngradesReports := by
  intro s t hstep
  refine step_induct (P := LatchLaw s) ?accept ?respond ?release ?send ?backlight ?init ?busy (.refl s) hstep
  case accept => exact fun u w rest arg hu _ _ => hu.trans (.of_same rfl rfl)
  case respond => exact fun u st hu _ => hu.trans (respond_latchLaw st none u)
  case release => exact fun u h hu _ _ => (hu.trans (release_latchLaw h u)).trans (respond_latchLaw .ok none _)
  case send => exact fun u rs hu _ _ => hu.trans (.of_same rfl rfl)
  case backlight => exact fun u hu _ _ => hu.trans (.of_same rfl rfl)
  case init => exact fun u hu _ _ => hu.trans (.of_same rfl rfl)
  case busy => exact fun u v hu _ hv => hu.trans (busyStep_latchLaw hv)

end Sys2Proof.Machine
end

section
/-! SUPPORT. The order of the life-cycle states (10_state.md R32 d, 41_sequencer.md R110). -/

namespace Sys2Proof.Machine

/-- A micro-step goes on in the order of the life cycle, neither from Unopened nor out of Ready. -/
theorem Moves.fsm_order {s t : State} (h : Moves s t) (hs : LifeCycle s) (hbusy : ¬ s.Idle) :
    s.fsm.code.toNat ≤ t.fsm.code.toNat ∧ (s.fsm = .ready → t.fsm = .ready) ∧ s.fsm ≠ .unopened := by
  have hkept (u : State) (hsame : u.fsm = s.fsm) (hfsm : s.fsm ≠ .unopened) :
      s.fsm.code.toNat ≤ u.fsm.code.toNat ∧ (s.fsm = .ready → u.fsm = .ready) ∧ s.fsm ≠ .unopened := by
    simp [hsame, hfsm]
  have hrow {f g : Fsm} (u : State) (hsf : s.fsm = f) (hug : u.fsm = g)
      (hfg : f.code.toNat ≤ g.code.toNat ∧ (f = .ready → g = .ready) ∧ f ≠ .unopened) :
      s.fsm.code.toNat ≤ u.fsm.code.toNat ∧ (s.fsm = .ready → u.fsm = .ready) ∧ s.fsm ≠ .unopened := by
    rw [hsf, hug]; exact hfg
  cases h with
  | waits =>
    refine hkept s rfl ?_
    cases hs.phase with
    | resting hidle => exact absurd hidle hbusy
    | opening path hfsm => simp [hfsm]
    | addressed h hfsm => simp [hfsm]
    | transmitting h f ht => exact ht.not_unopened
  | opened path h os hfsm => exact hrow (g := .addressed) _ hfsm rfl (by decide)
  | openFailed path e os hfsm => exact hrow (g := .closed) _ hfsm rfl (by decide)
  | configured h cs hfsm => exact hrow (g := .initializing) _ hfsm rfl (by decide)
  | configuredEmpty h cs hfsm => exact hrow (g := .ready) _ hfsm rfl (by decide)
  | addressingFailed h e cs hfsm => exact hrow (g := .closed) _ hfsm rfl (by decide)
  | issued h f ht => exact hkept _ rfl ht.not_unopened
  | entry h f a as ht => exact hkept _ rfl ht.not_unopened
  | ended h f a as pc st ht =>
    obtain hfsm | hfsm := ht.fsm
    · exact hrow (g := .ready) _ hfsm rfl (by decide)
    · exact hrow (g := .ready) _ hfsm rfl (by decide)

/-- A command that runs in Ready ends or waits in Ready. -/
theorem runToRest_ready {n : Nat} {s t : State} (hs : LifeCycle s) (hready : s.fsm = .ready)
    (h : runToRest n s = .next t) : t.fsm = .ready := by
  refine (runToRest_induct (P := fun u => LifeCycle u ∧ u.fsm = .ready) (fun u v hu hrest hv => ?_) n s t
    ⟨hs, hready⟩ h).2
  have hbusy : ¬ u.Idle := fun hidle => hrest (.inl hidle)
  exact ⟨hu.1.of_busyStep hbusy hv, ((hu.1.moves hbusy hv).fsm_order hu.1 hbusy).2.1 hu.2⟩

/-- A command leaves the life-cycle state, but INIT out of Unopened and SHUT, with a handle, to Closed. -/
theorem exec_fsm {i : Instr} {s t : State} (hs : LifeCycle s) (hidle : s.Idle) (hi : i.port = .command)
    (h : exec i s = .next t) :
    t.fsm = s.fsm ∨ (i = .init ∧ s.fsm = .unopened) ∨ (i = .shut ∧ s.fsm = .ready ∧ t.fsm = .closed) := by
  have hstart := hs.commandStart hidle i
  rw [exec_of_idle hi hidle] at h
  have hended (u : State) (st : Status) (hu : commandStart i s = u.respond st none) (hpending : u.pending = none) :
      t.fsm = u.fsm := by
    rw [hu, runToRest_of_rest (s := u.respond st none) (.inl ⟨rfl, hpending⟩), next_inj] at h
    rw [← h]; rfl
  have hsend (u v : State) (hu : u.fsm = s.fsm) (hv : v.fsm = s.fsm) (hpending : v.pending = none)
      (hguard : commandStart i s = if s.fsm = .ready then u else v.respond .notReady none) : t.fsm = s.fsm := by
    by_cases hready : s.fsm = .ready
    · rw [if_pos hready] at hguard
      rw [hguard] at hstart h
      exact (runToRest_ready hstart (hu.trans hready) h).trans hready.symm
    · exact (hended v .notReady (hguard.trans (if_neg hready)) hpending).trans hv
  cases i with
  | init =>
    by_cases hfsm : s.fsm = .unopened
    · exact .inr (.inl ⟨rfl, hfsm⟩)
    · exact .inl (hended (s.accept 0) .badState (if_neg hfsm) hidle.2)
  | sendi b => exact .inl (hsend ((s.accept b).beginSend .instr) (s.accept b) rfl rfl hidle.2 rfl)
  | sendd b => exact .inl (hsend ((s.accept b).beginSend .data) (s.accept b) rfl rfl hidle.2 rfl)
  | bl on => exact .inl (hsend (s.accept (blOperand on)).beginBacklight (s.accept (blOperand on)) rfl rfl hidle.2 rfl)
  | shut =>
    obtain ⟨_, hhandle⟩ | ⟨hready, hhandle⟩ := hs.resting hidle
    · exact .inl (hended (s.accept 0) .ok (commandStart_shut_none hhandle) hidle.2)
    · obtain ⟨hd, hh⟩ := Option.ne_none_iff_exists'.mp hhandle
      have hclosed := hended ((s.accept 0).release hd) .ok (commandStart_shut_some hh) (by rw [release_eq]; exact hidle.2)
      exact .inr (.inr ⟨rfl, hready, by rw [hclosed, release_eq]⟩)
  | wrIr p | wrDr p => cases hi

/-- Settles O53: only SHUT and INIT move an idle CORE, and a micro-step goes by the table. -/
theorem lifeCycleNeverMovesBackward : Obligations.LifeCycleNeverMovesBackward := by
  intro s t hs hstep
  have hstays (hsame : t.fsm = s.fsm) : s.fsm.code.toNat ≤ t.fsm.code.toNat ∧
      (s.fsm = .ready → t.fsm ≠ .ready → t.fsm = .closed ∧ ∃ rest, s.host = 0x0500#16 :: rest) ∧
      (s.fsm = .unopened → t.fsm ≠ .unopened → ∃ rest, s.host = 0x0100#16 :: rest) := by
    rw [hsame]
    exact ⟨Nat.le_refl _, absurd, absurd⟩
  obtain ⟨_, _, rfl⟩ | ⟨hidle, w, rest, i, hhost, hdecode, hexec⟩ | ⟨_, w, rest, e, _, _, rfl⟩ | ⟨hbusy, hmicro⟩ :=
    step_cases hstep
  · exact hstays rfl
  · have htaken : LifeCycle { s with host := rest } := .of_resting hidle (hs.resting hidle)
    have hword : s.host = encode i :: rest := by rw [encode_of_decodeCommand hdecode, hhost]
    obtain hsame | ⟨rfl, hfsm⟩ | ⟨rfl, hready, hclosed⟩ := exec_fsm htaken hidle (decodeCommand_ok hdecode) hexec
    · exact hstays hsame
    · have hfsm : s.fsm = .unopened := hfsm
      refine ⟨by rw [hfsm]; exact Nat.zero_le _, fun h => ?_, fun _ _ => ⟨rest, hword⟩⟩
      rw [hfsm] at h; cases h
    · have hready : s.fsm = .ready := hready
      refine ⟨by rw [hready, hclosed]; decide, fun _ _ => ⟨hclosed, rest, hword⟩, fun h => ?_⟩
      rw [hready] at h; cases h
  · exact hstays rfl
  · obtain ⟨hcode, hready, hopened⟩ := (hs.moves hbusy hmicro).fsm_order hs hbusy
    exact ⟨hcode, fun h hne => absurd (hready h) hne, fun h => absurd h hopened⟩

end Sys2Proof.Machine
end

section
/-! SUPPORT. What holds of whole commands (20_memory.md R48, 30_encoding.md R66, 41_sequencer.md R113): the outcomes of a
transmitting command and of INIT, whatever PLATFORM answers. -/

namespace Sys2Proof.Machine

/-! ### The frames and reports of a transcript -/

theorem framesOf_transcript (h : Handle) (a7 : Addr7) (v : Variant) (as : List WriteAnswer) :
    ∀ (suppress : Bool) (fs : List RomEntry), framesOf (transcript h a7 v suppress fs as) = fs.take as.length := by
  induction as with
  | nil => intro suppress fs; rw [transcript_nil]; rfl
  | cons a as ih =>
    intro suppress fs
    cases fs with
    | nil => rfl
    | cons f fs =>
      rw [transcript_cons, transcript_single, framesOf_append, ih]
      cases a.failed <;> simp

theorem variantReports_transcript (h : Handle) (a7 : Addr7) (v : Variant) (as : List WriteAnswer) :
    ∀ (suppress : Bool) (fs : List RomEntry), variantReports (transcript h a7 v suppress fs as) = [] := by
  induction as with
  | nil => intro suppress fs; rw [transcript_nil]; rfl
  | cons a as ih =>
    intro suppress fs
    cases fs with
    | nil => rfl
    | cons f fs =>
      rw [transcript_cons, transcript_single, variantReports_append, ih]
      cases a.failed <;> simp

/-- PLATFORM has an answer for each entry of a program, or for the first entries only. -/
theorem answers_cases (fs : List RomEntry) (as : List WriteAnswer) :
    (∃ bs rest, as = bs ++ rest ∧ bs.length = fs.length) ∨ ∃ f, fs[as.length]? = some f := by
  by_cases hle : fs.length ≤ as.length
  · exact .inl ⟨as.take fs.length, as.drop fs.length, (List.take_append_drop _ _).symm, List.length_take_of_le hle⟩
  · exact .inr ⟨_, List.getElem?_eq_getElem (Nat.lt_of_not_le hle)⟩

/-! ### SENDI, SENDD and BL in Ready -/

/-- A transmitting command has handed to the bus one of its frames more than there were answers, as far as it has frames,
and ends or waits. -/
structure SendOutcome (fs : List RomEntry) (s t : State) : Prop where
  rest : t.AtRest
  issued : framesIssued t = framesOf s.hist ++ fs.take (s.writeAnswers.length + 1)
  ended : t.Idle → fs.length ≤ s.writeAnswers.length

theorem SendOutcome.frames {fs : List RomEntry} {s t : State} (h : SendOutcome fs s t) (hidle : t.Idle) :
    framesOf t.hist = framesOf s.hist ++ fs := by
  have hissued := h.issued
  rw [List.take_of_length_le (Nat.le_succ_of_le (h.ended hidle))] at hissued
  simpa [framesIssued, hidle.2] using hissued

section Send

variable {s : State} {h : Handle}

theorem runToRest_send_outcome (b : Byte) (rs : RegSelect) (hs : s.Idle) (hready : s.fsm = .ready)
    (hhandle : s.handle = some h) :
    ∃ t, runToRest 1 ((s.accept b).beginSend rs) = .next t ∧ SendOutcome [⟨sendControl rs, b⟩] s t := by
  cases hanswers : s.writeAnswers with
  | nil =>
    refine ⟨_, runToRest_send_waits b rs hs hready hhandle hanswers, ⟨.inr ?_, ?_, fun hidle => ?_⟩⟩
    · simp [State.blocked, hanswers]
    · simp [framesIssued, Request.frame?, hanswers]
    · cases hidle.2
  | cons a as =>
    refine ⟨_, runToRest_send_answered b rs hs hready hhandle hanswers, ⟨.inl hs, ?_, fun _ => ?_⟩⟩
    · simp [framesIssued, framesOf_transcript, hs.2]
    · simp [hanswers]

theorem exec_bl_outcome (on : Bool) (hs : s.Idle) (hready : s.fsm = .ready) (hhandle : s.handle = some h) :
    ∃ t, exec (.bl on) s = .next t ∧ SendOutcome (blFrames on) s t := by
  obtain ⟨as, rest, hanswers, hlength⟩ | ⟨f, hentry⟩ := answers_cases (blFrames on) s.writeAnswers
  · have hsix : as.length = 6 := hlength
    have hle : (blFrames on).length ≤ s.writeAnswers.length := by rw [hanswers, List.length_append]; omega
    refine ⟨_, backlightWritesSixFrames on s h as rest hs hready hhandle hanswers hsix, ⟨.inl hs, ?_, fun _ => hle⟩⟩
    rw [List.take_of_length_le (Nat.le_succ_of_le hle)]
    simp [framesIssued, framesOf_transcript, hs.2, hlength]
  · refine ⟨_, unansweredBacklightWaits on s h f hs hready hhandle hentry, ⟨.inr rfl, ?_, fun hidle => ?_⟩⟩
    · rw [List.take_add_one, hentry]
      simp [framesIssued, framesOf_transcript, Request.frame?]
    · cases hidle.2

/-- Each of the three, in Ready with a handle. -/
theorem exec_ready_outcome {i : Instr} (hi : i.port = .command) (hinit : i ≠ .init) (hshut : i ≠ .shut) (hs : s.Idle)
    (hready : s.fsm = .ready) (hhandle : s.handle = some h) :
    ∃ t, exec i s = .next t ∧ SendOutcome (commandFrames i s) s t := by
  cases i with
  | sendi b =>
    rw [exec_sendi_ready b hs hready, commandFrames, if_pos hready]
    exact runToRest_send_outcome b .instr hs hready hhandle
  | sendd b =>
    rw [exec_sendd_ready b hs hready, commandFrames, if_pos hready]
    exact runToRest_send_outcome b .data hs hready hhandle
  | bl on =>
    rw [commandFrames, if_pos hready]
    exact exec_bl_outcome on hs hready hhandle
  | init => exact absurd rfl hinit
  | shut => exact absurd rfl hshut
  | wrIr p | wrDr p => cases hi

end Send

/-- A run that completes its first transmission had a handle to transmit on. -/
theorem handle_of_runToRest {n : Nat} {s t : State} {f : RomEntry} (hpending : s.pending = none)
    (hframe : selectFrame s = some f) (h : runToRest (n + 1) s = .next t) : ∃ hd, s.handle = some hd := by
  have hrest : ¬ s.AtRest := by
    rintro (hidle | hblocked)
    · exact not_idle_of_selectFrame hframe hidle
    · simp [State.blocked, hpending] at hblocked
  rw [runToRest_succ hrest, busyStep_frame hpending hframe, frameStep_eq, bindNext_eq_next] at h
  obtain ⟨u, hu, _⟩ := h
  obtain ⟨v, hv, _⟩ := mapNext_eq_next.mp hu
  obtain ⟨_, _, hd, hhandle, _⟩ := transmit_eq_next.mp hv
  exact ⟨hd, hhandle⟩

/-- The three in an idle state: refused outside Ready, else transmitting. -/
theorem exec_send_cases {i : Instr} {s t : State} (hi : i.port = .command) (hinit : i ≠ .init) (hshut : i ≠ .shut)
    (h : exec i s = .next t) :
    (s.fsm ≠ .ready ∧ t.Idle ∧ t.hist = s.hist ++ [.resp .notReady none]) ∨
    (s.fsm = .ready ∧ SendOutcome (commandFrames i s) s t) := by
  have hs : s.Idle := (exec_command_cases hi h).1
  by_cases hready : s.fsm = .ready
  · obtain ⟨hd, hhandle⟩ : ∃ hd, s.handle = some hd := by
      cases i with
      | sendi b =>
        rw [exec_sendi_ready b hs hready] at h
        exact handle_of_runToRest (s := (s.accept b).beginSend .instr) hs.2 rfl h
      | sendd b =>
        rw [exec_sendd_ready b hs hready] at h
        exact handle_of_runToRest (s := (s.accept b).beginSend .data) hs.2 rfl h
      | bl on =>
        rw [exec_bl_ready on hs hready] at h
        exact handle_of_runToRest (s := (s.accept (blOperand on)).beginBacklight) hs.2 rfl h
      | init => exact absurd rfl hinit
      | shut => exact absurd rfl hshut
      | wrIr p | wrDr p => cases hi
    obtain ⟨u, hu, houtcome⟩ := exec_ready_outcome hi hinit hshut hs hready hhandle
    rw [h, next_inj] at hu
    exact .inr ⟨hready, hu ▸ houtcome⟩
  · obtain ⟨hsendi, hsendd, hbl⟩ := sendsOutsideReadyAreRefused s hs hready
    refine .inl ⟨hready, ?_⟩
    cases i with
    | sendi b => rw [hsendi b, next_inj] at h; rw [← h]; exact ⟨hs, rfl⟩
    | sendd b => rw [hsendd b, next_inj] at h; rw [← h]; exact ⟨hs, rfl⟩
    | bl on => rw [hbl on, next_inj] at h; rw [← h]; exact ⟨hs, rfl⟩
    | init => exact absurd rfl hinit
    | shut => exact absurd rfl hshut
    | wrIr p | wrDr p => cases hi

/-! ### INIT in Unopened -/

/-- INIT has written the first `n` entries of its program and reported the variant `k` times, and ends or waits. -/
structure InitOutcome (n k : Nat) (s t : State) : Prop where
  rest : t.AtRest
  addr7 : t.addr7 = maskAddr s.cfg.addr
  variant : t.variant = s.cfg.variant
  frames : framesOf t.hist = framesOf s.hist ++ s.romInit.take n
  reports : variantReports t.hist = variantReports s.hist ++ List.replicate k s.cfg.variant
  reported : ∀ h os cs, s.openAnswers = .ok h :: os → s.configAnswers = .ok :: cs → k = 1
  complete : t.fsm = .ready → s.romInit.length ≤ n
  ended : t.Idle → t.fsm = .ready ∨ (∃ e, t.hist.getLast? = some (.resp .deviceOpenFailed (some e))) ∨
    ∃ e, t.hist.getLast? = some (.resp .addressingFailed (some e))

/-- The six ways PLATFORM can answer INIT. -/
theorem exec_init_outcome {s : State} (hs : s.Idle) (hfsm : s.fsm = .unopened) :
    ∃ n k t, exec .init s = .next t ∧ InitOutcome n k s t := by
  match hopen : s.openAnswers, hconfig : s.configAnswers with
  | [], _ =>
    refine ⟨0, 0, _, exec_init_opening hs hfsm hopen, ?_⟩
    constructor
    case rest => exact .inr (List.isEmpty_iff.mpr hopen)
    all_goals simp [State.initOpening, State.beginInit, hopen]
  | .err e :: os, _ =>
    refine ⟨0, 0, _, initStopsWhenOpenFails s e os hs hfsm hopen, ?_⟩
    constructor
    case rest => exact .inl hs
    all_goals simp [hopen]
  | .ok h :: os, [] =>
    refine ⟨0, 0, _, exec_init_addressed hs hfsm hopen hconfig, ?_⟩
    constructor
    case rest => exact .inr (List.isEmpty_iff.mpr hconfig)
    all_goals simp [State.initAddressed, State.initOpening, State.beginInit, hconfig]
  | .ok h :: os, .err e :: cs =>
    refine ⟨0, 0, _, initStopsWhenAddressingFails s h e os cs hs hfsm hopen hconfig, ?_⟩
    constructor
    case rest => exact .inl hs
    all_goals simp [hconfig]
  | .ok h :: os, .ok :: cs =>
    obtain ⟨as, rest, hanswers, hlength⟩ | ⟨f, hentry⟩ := answers_cases s.romInit s.writeAnswers
    · refine ⟨as.length, 1, _, initWritesTheWholeProgram s h os cs as rest hs hfsm hopen hconfig hanswers hlength, ?_⟩
      constructor
      case rest => exact .inl hs
      all_goals simp [framesOf_transcript, variantReports_transcript, hlength]
    · refine ⟨s.writeAnswers.length, 1, _, exec_init_waiting hs hfsm hopen hconfig hentry, ?_⟩
      constructor
      case rest => exact .inr rfl
      all_goals simp [State.initWaiting, framesOf_transcript, variantReports_transcript]

/-- INIT in an idle state: refused outside Unopened, else run. -/
theorem exec_init_cases {s t : State} (h : exec .init s = .next t) :
    (s.fsm ≠ .unopened ∧ t.Idle ∧ t.hist = s.hist ++ [.resp .badState none]) ∨
    (s.fsm = .unopened ∧ ∃ n k, InitOutcome n k s t) := by
  have hs : s.Idle := (exec_command_cases rfl h).1
  by_cases hfsm : s.fsm = .unopened
  · obtain ⟨n, k, u, hu, houtcome⟩ := exec_init_outcome hs hfsm
    rw [h, next_inj] at hu
    exact .inr ⟨hfsm, n, k, hu ▸ houtcome⟩
  · rw [initOutsideUnopenedIsRefused s hs hfsm, next_inj] at h
    rw [← h]
    exact .inl ⟨hfsm, hs, rfl⟩

theorem exec_shut_idle {s t : State} (h : exec .shut s = .next t) : t.Idle ∧ framesOf t.hist = framesOf s.hist := by
  have hs : s.Idle := (exec_command_cases rfl h).1
  cases hhandle : s.handle with
  | none =>
    rw [shutWithoutHandleDoesNothing s hs hhandle, next_inj] at h
    rw [← h]
    exact ⟨hs, by simp⟩
  | some hd =>
    rw [shutReleasesTheHandle s hd hs hhandle, next_inj] at h
    rw [← h]
    exact ⟨hs, by cases s.hasStop <;> simp⟩

/-! ### The statements -/

/-- Settles O34: a refused INIT writes nothing, and an accepted one has the outcome above. -/
theorem initFramesAreAPrefixOfTheProgram : Obligations.InitFramesAreAPrefixOfTheProgram := by
  intro s t h
  obtain ⟨hfsm, _, hhist⟩ | ⟨_, n, k, houtcome⟩ := exec_init_cases h
  · exact ⟨0, by simp [hhist], fun hunopened => absurd hunopened hfsm⟩
  · exact ⟨n, houtcome.frames, fun _ => houtcome.complete⟩

/-- Settles O45, command by command. -/
theorem commandRunsToResponseOrWaits : Obligations.CommandRunsToResponseOrWaits := by
  intro i s t hi h
  have hi := wellFormedAt_iff.mp hi
  by_cases hinit : i = .init
  · subst hinit
    obtain ⟨_, hidle, _⟩ | ⟨_, n, k, houtcome⟩ := exec_init_cases h
    · exact .inl hidle
    · exact houtcome.rest
  by_cases hshut : i = .shut
  · subst hshut
    exact .inl (exec_shut_idle h).1
  obtain ⟨_, hidle, _⟩ | ⟨_, houtcome⟩ := exec_send_cases hi hinit hshut h
  · exact .inl hidle
  · exact houtcome.rest

/-- A refused command owes no frames. -/
theorem commandFrames_of_not_ready {i : Instr} {s : State} (hi : i.port = .command) (hinit : i ≠ .init)
    (hready : s.fsm ≠ .ready) : commandFrames i s = [] := by
  cases i with
  | sendi b | sendd b | bl on => exact if_neg hready
  | init => exact absurd rfl hinit
  | shut => rfl
  | wrIr p | wrDr p => cases hi

/-- Settles O43, command by command. -/
theorem eachCommandWritesExactlyItsFrames : Obligations.EachCommandWritesExactlyItsFrames := by
  intro i s t hi h hidle hopened haddressed
  have hi := wellFormedAt_iff.mp hi
  by_cases hinit : i = .init
  · subst hinit
    obtain ⟨hfsm, _, hhist⟩ | ⟨hfsm, n, k, houtcome⟩ := exec_init_cases h
    · simp [hhist, commandFrames, hfsm]
    · obtain hready | ⟨e, he⟩ | ⟨e, he⟩ := houtcome.ended hidle
      · rw [houtcome.frames, List.take_of_length_le (houtcome.complete hready), commandFrames, if_pos hfsm]
      · exact absurd he (hopened e)
      · exact absurd he (haddressed e)
  by_cases hshut : i = .shut
  · subst hshut
    simp [(exec_shut_idle h).2, commandFrames]
  obtain ⟨hready, _, hhist⟩ | ⟨_, houtcome⟩ := exec_send_cases hi hinit hshut h
  · simp [hhist, commandFrames_of_not_ready hi hinit hready]
  · exact houtcome.frames hidle

/-- Settles O26: each has written its six frames, and those differ in the fourth payload. -/
theorem backlightOnAndOffDifferInOnePayload : Obligations.BacklightOnAndOffDifferInOnePayload := by
  intro s t u hready ht hu htidle huidle
  have hframes {on : Bool} {v : State} (h : exec (.bl on) s = .next v) (hidle : v.Idle) :
      framesOf v.hist = framesOf s.hist ++ blFrames on := by
    obtain ⟨hnot, _⟩ | ⟨_, houtcome⟩ := exec_send_cases (i := .bl on) rfl nofun nofun h
    · exact absurd hready hnot
    · simpa only [commandFrames, if_pos hready] using houtcome.frames hidle
  refine ⟨_, _, hframes ht htidle, hframes hu huidle, rfl, rfl, fun n hn => ?_, rfl, rfl⟩
  match n, hn with
  | 0, _ | 1, _ | 2, _ | 4, _ | 5, _ | _ + 6, _ => rfl

theorem getLsbD_maskAddr (raw : Byte) (n : Nat) : (maskAddr raw).getLsbD n = (decide (n < 7) && raw.getLsbD n) := by
  have hmask : ∀ n < 7, (0x7F#8).getLsbD n = true := by decide
  simp only [maskAddr, BitVec.getLsbD_setWidth, BitVec.getLsbD_and]
  by_cases hn : n < 7
  · rw [hmask n hn, Bool.and_true]
  · simp [hn]

/-- Settles O7: (a) and (b) from the frames issued, (c) and (d) from INIT's outcome. -/
theorem operandTransformationsAreTheFourOfTheSpec : Obligations.OperandTransformationsAreTheFourOfTheSpec := by
  refine ⟨fun s h b hs hready hhandle => ?sends, fun w on hdecode => ?operand,
    fun s h on hs hready hhandle hanswers => ?backlight, fun s hs hfsm => ?init⟩
  case sends =>
    have hissued (i : Instr) (c : Byte) (hi : i.port = .command) (hinit : i ≠ .init) (hshut : i ≠ .shut)
        (hframes : commandFrames i s = [⟨c, b⟩]) :
        ∃ t c, exec i s = .next t ∧ framesIssued t = framesOf s.hist ++ [⟨c, b⟩] := by
      obtain ⟨t, ht, houtcome⟩ := exec_ready_outcome hi hinit hshut hs hready hhandle
      exact ⟨t, c, ht, by simpa [hframes] using houtcome.issued⟩
    exact ⟨hissued (.sendi b) 0x80 rfl nofun nofun (if_pos hready),
      hissued (.sendd b) 0x40 rfl nofun nofun (if_pos hready)⟩
  case operand =>
    rw [← encode_of_decodeCommand hdecode]
    cases on <;> decide
  case backlight =>
    obtain ⟨t, ht, houtcome⟩ := exec_bl_outcome on hs hready hhandle
    have hreached : blValueIndex < s.writeAnswers.length + 1 := Nat.lt_succ_of_le hanswers
    refine ⟨t, 0x80, ht, ?_⟩
    rw [houtcome.issued, List.getElem?_append_right (Nat.le_add_right _ _), Nat.add_sub_cancel_left,
      List.getElem?_take_of_lt hreached]
    rfl
  case init =>
    obtain ⟨n, k, t, ht, houtcome⟩ := exec_init_outcome hs hfsm
    refine ⟨t, k, ht, fun i => ?_, houtcome.variant, houtcome.reports, houtcome.reported⟩
    rw [houtcome.addr7, getLsbD_maskAddr]

end Sys2Proof.Machine
end

section
/-! SUPPORT. The variant flag steers nothing (10_state.md R14, 90_conflicts.md C3): erasing it, its input and its place in
the reports can as well be done before an operation as after it. -/

namespace Sys2Proof.Machine

open Host (Outcome)

/-- A step that is steered by nothing hidden, from its parts: the micro-step, the first states of the commands, the answer
to an illegal word and the taking of a word. -/
theorem NeverSteers.step {e : State → State} (hsrc : ∀ s, (e s).src = s.src) (hpending : ∀ s, (e s).pending = s.pending)
    (hhost : ∀ s, (e s).host = s.host) (hrom : ∀ s, (e s).romInit = s.romInit) (hblocked : ∀ s, (e s).blocked = s.blocked)
    (htake : ∀ rest, KeepsHidden e (fun s => { s with host := rest })) (hillegal : ∀ w, KeepsHidden e (answerIllegal w))
    (hstart : ∀ i, KeepsHidden e (commandStart i)) (hbusy : NeverSteers e busyStep) : NeverSteers e step := by
  have hidle (s : State) : (e s).Idle = s.Idle := by simp only [State.Idle, hsrc, hpending]
  have hrest (s : State) : (e s).AtRest = s.AtRest := by simp only [State.AtRest, hidle, hblocked]
  have hexec (i : Instr) (hi : i.port = .command) : NeverSteers e (exec i) := by
    have hrun : NeverSteers e (fun s => Machine.runToRest (commandFuel i s) (commandStart i s)) :=
      .branch (r := commandFuel i) (fun s => by cases i <;> simp only [commandFuel, hrom]) fun n =>
        ⟨_, (NeverSteers.runToRest hrest hbusy n).comp (hstart i), fun s hs => by rw [hs]⟩
    refine .branch (r := State.Idle) hidle fun p => ?_
    by_cases hp : p
    · exact ⟨_, hrun, fun s hs => exec_of_idle hi (hs ▸ hp)⟩
    · exact ⟨_, .stop, fun s hs => exec_of_busy hi (hs ▸ hp)⟩
  have hcommand : NeverSteers e commandStep := by
    refine .branch (r := State.host) hhost fun words => ?_
    cases words with
    | nil => exact ⟨_, .next .id, fun s hs => commandStep_nil hs⟩
    | cons w rest =>
      cases hd : decodeCommand w with
      | ok i =>
        exact ⟨_, (hexec i (decodeCommand_ok hd)).comp (htake rest), fun s hs => by simp only [commandStep_cons hs, hd]⟩
      | error _ =>
        exact ⟨_, .next ((hillegal w).comp (htake rest)), fun s hs => by simp only [commandStep_cons hs, hd]⟩
  exact .ite hidle hcommand (by simpa only [funext runningStep_eq] using hbusy)

theorem continueCommand_of_rest {s : State} (h : s.pending ≠ none ∨ s.src = .none) : s.continueCommand = s := by
  obtain hpending | hsrc := h
  · obtain ⟨r, hr⟩ := Option.ne_none_iff_exists'.mp hpending
    exact continueCommand_of_pending hr
  · simp [State.continueCommand, hsrc]

theorem continueCommand_of_direct {s : State} (hpending : s.pending = none) (hsrc : s.src = .direct) :
    s.continueCommand = s.endProgram := by simp [State.continueCommand, hpending, hsrc]

/-- An update that keeps what the command's going on reads, and commutes with its effects, commutes with it. -/
theorem continueCommand_commutes {e : State → State} (hsrc : ∀ s, (e s).src = s.src)
    (hpending : ∀ s, (e s).pending = s.pending) (hentries : ∀ s, (e s).entries = s.entries)
    (hseqPc : ∀ s, (e s).seqPc = s.seqPc)
    (hindex : ∀ s, e { s with seqPc := s.seqPc + 1 } = { e s with seqPc := s.seqPc + 1 })
    (hend : ∀ s, e s.endProgram = (e s).endProgram) (s : State) : e s.continueCommand = (e s).continueCommand := by
  have hprogram (hp : s.pending = none) (hs : s.src = .romInit ∨ s.src = .romBl) :
      e s.continueCommand = (e s).continueCommand := by
    rw [continueCommand_of_program hp hs, continueCommand_of_program ((hpending s).trans hp) (by rwa [hsrc]), hseqPc,
      hentries, ← hindex, ← hend]
    split <;> rfl
  obtain ⟨hrest, heq⟩ | ⟨hp, hs, heq⟩ | ⟨hp, hs, _⟩ | ⟨hp, hs, _⟩ := continueCommand_cases s
  · rw [heq, continueCommand_of_rest (by rwa [hpending, hsrc])]
  · rw [heq, continueCommand_of_direct ((hpending s).trans hp) ((hsrc s).trans hs), hend]
  · exact hprogram hp hs
  · exact hprogram hp hs

section Erase

variable (s : State)

theorem eraseVariant_respond (st : Status) (info : Option OsError) :
    (s.respond st info).eraseVariant = s.eraseVariant.respond st info := by
  simp [State.respond, State.eraseVariant, Event.eraseVariant]

theorem eraseVariant_release (h : Handle) : (s.release h).eraseVariant = s.eraseVariant.release h := by
  cases hs : s.hasStop <;> simp [release_eq, hs, State.eraseVariant, Event.eraseVariant]

theorem eraseVariant_endProgram : s.endProgram.eraseVariant = s.eraseVariant.endProgram := by
  have hsrc : s.eraseVariant.src = s.src := rfl
  obtain ⟨hs, heq⟩ | ⟨hs, heq⟩ | ⟨hs, heq⟩ := endProgram_cases s <;> rw [heq]
  · simp only [State.endProgram, hsrc, hs]
  · rw [endProgram_of_romInit (hsrc.trans hs)]; exact eraseVariant_respond _ _ _
  · rw [eraseVariant_respond]
    obtain hs | hs := hs <;> simp only [State.endProgram, hsrc, hs] <;> rfl

theorem eraseVariant_continueCommand : s.continueCommand.eraseVariant = s.eraseVariant.continueCommand :=
  continueCommand_commutes (e := State.eraseVariant) (fun _ => rfl) (fun _ => rfl) (fun _ => rfl) (fun _ => rfl)
    (fun _ => rfl) eraseVariant_endProgram s

theorem eraseVariant_awaitWrite (h : Handle) (a7 : Addr7) (c p : Byte) :
    (s.awaitWrite h a7 c p).eraseVariant = s.eraseVariant.awaitWrite h a7 c p := by
  cases hw : s.writeAnswers with
  | nil => simp [State.awaitWrite, hw, State.eraseVariant]
  | cons a rest =>
    cases ha : a.failed <;> simp [State.awaitWrite, hw, completeWrite_eq, ha, State.eraseVariant, Event.eraseVariant]

theorem eraseVariant_awaitOpen (path : Path) : (s.awaitOpen path).eraseVariant = s.eraseVariant.awaitOpen path := by
  match hw : s.openAnswers with
  | [] => rw [awaitOpen_nil path hw, awaitOpen_nil (s := s.eraseVariant) path hw]
  | .ok h :: os =>
    rw [awaitOpen_ok path hw, awaitOpen_ok (s := s.eraseVariant) path hw]
    simp [State.eraseVariant, Event.eraseVariant]
  | .err e :: os =>
    rw [awaitOpen_err path hw, awaitOpen_err (s := s.eraseVariant) path hw]
    simp [State.eraseVariant, Event.eraseVariant]

theorem eraseVariant_awaitConfig (h : Handle) (a7 : Addr7) :
    (s.awaitConfig h a7).eraseVariant = s.eraseVariant.awaitConfig h a7 := by
  match hw : s.configAnswers with
  | [] => rw [awaitConfig_nil h a7 hw, awaitConfig_nil (s := s.eraseVariant) h a7 hw]
  | .ok :: cs =>
    have hconfigured : (configured h a7 cs s).eraseVariant = configured h a7 cs s.eraseVariant := by
      simp [configured, State.eraseVariant, Event.eraseVariant]
    have hlength : programLength s.eraseVariant = programLength s := rfl
    rw [awaitConfig_ok h a7 hw, awaitConfig_ok (s := s.eraseVariant) h a7 hw, hlength, ← hconfigured,
      ← eraseVariant_endProgram]
    split <;> rfl
  | .err e :: cs =>
    rw [awaitConfig_err h a7 hw, awaitConfig_err (s := s.eraseVariant) h a7 hw]
    simp [State.eraseVariant, Event.eraseVariant]

theorem mapNext_eraseVariant_transmit (c p : Byte) :
    mapNext State.eraseVariant (transmit c p s) = transmit c p s.eraseVariant := by
  have hpending : s.eraseVariant.pending = s.pending := rfl
  have hhandle : s.eraseVariant.handle = s.handle := rfl
  have hfsm : s.eraseVariant.fsm = s.fsm := rfl
  match hp : s.pending, hh : s.handle with
  | some r, _ => simp only [transmit, hpending, hp, mapNext]
  | none, none => simp only [transmit, hpending, hhandle, hp, hh, mapNext]
  | none, some h =>
    by_cases hready : s.fsm = .initializing ∨ s.fsm = .ready
    · rw [transmit_eq hp hh hready, transmit_eq (s := s.eraseVariant) hp hh hready]
      exact congrArg Outcome.next (eraseVariant_awaitWrite (s.issued h ⟨c, p⟩) h s.addr7 c p)
    · simp only [transmit, hpending, hhandle, hfsm, hp, hh, if_neg hready, mapNext]

theorem mapNext_eraseVariant_busyStep : mapNext State.eraseVariant (busyStep s) = busyStep s.eraseVariant := by
  have hpending : s.eraseVariant.pending = s.pending := rfl
  have hframe : selectFrame s.eraseVariant = selectFrame s := rfl
  unfold busyStep
  rw [hpending, hframe]
  split
  · exact congrArg Outcome.next (eraseVariant_awaitOpen s _)
  · exact congrArg Outcome.next (eraseVariant_awaitConfig s _ _)
  · refine congrArg Outcome.next ?_
    rw [eraseVariant_continueCommand, eraseVariant_awaitWrite]
  · split
    · rw [← mapNext_eraseVariant_transmit]
      cases transmit _ _ s <;> simp only [mapNext, eraseVariant_continueCommand]
    · exact congrArg Outcome.next (eraseVariant_endProgram s)

theorem eraseVariant_commandStart (i : Instr) : (commandStart i s).eraseVariant = commandStart i s.eraseVariant := by
  have hsame : s.eraseVariant.fsm = s.fsm ∧ s.eraseVariant.handle = s.handle := ⟨rfl, rfl⟩
  obtain ⟨hfsm, hhandle⟩ := hsame
  have hended (arg : Byte) (st : Status) := eraseVariant_respond (s.accept arg) st none
  cases i with
  | init | sendi b | sendd b | bl on =>
    simp only [commandStart, hfsm]
    split
    · rfl
    · exact hended _ _
  | shut =>
    simp only [commandStart, hhandle]
    split
    · exact hended 0 .ok
    · rw [eraseVariant_respond, eraseVariant_release]; rfl
  | wrIr p | wrDr p => rfl

end Erase

/-- Settles O59: each part of a step commutes with the erasure. -/
theorem variantReachesOnlyTheReports : Obligations.VariantReachesOnlyTheReports := by
  have hbusy : NeverSteers State.eraseVariant busyStep := fun s t hst => by
    simp only [mapNext_eraseVariant_busyStep, hst]
  exact fun s t hst => NeverSteers.step (e := State.eraseVariant) (fun _ => rfl) (fun _ => rfl) (fun _ => rfl)
    (fun _ => rfl) (fun _ => rfl) (fun rest => .commuting _ fun _ => rfl)
    (fun w => .commuting _ fun s => eraseVariant_respond (s.accept (Word.low w)) .illegalCommand none)
    (fun i => .commuting _ fun s => eraseVariant_commandStart s i) hbusy hst

end Sys2Proof.Machine
end

section
/-! SUPPORT. The registers reset leaves unspecified (10_state.md R31) are written before they are read. -/

namespace Sys2Proof.Machine

open Host (Outcome)

/-- Two outcomes that look the same without the unspecified registers. -/
theorem mapNext_eraseUnspecified_eq {o p : Outcome State Fault Refusal} {t u : State} (ho : o = .next t)
    (hp : p = .next u) (h : t.eraseUnspecified = u.eraseUnspecified) :
    mapNext State.eraseUnspecified o = mapNext State.eraseUnspecified p := by
  rw [ho, hp]; exact congrArg Outcome.next h

section Unspecified

variable (s : State) (a7 : Addr7) (v : Variant) (b : Byte) (rs : RegSelect)

/-- The state with other values in the registers. -/
def State.withUnspecified : State := { s with addr7 := a7, variant := v, opnd := b, rs := rs }

/-- INIT latches its own address, variant and operand, whatever PLATFORM answers, and its source does not read the signal of
ENC. -/
theorem exec_init_withUnspecified (hs : s.Idle) (hfsm : s.fsm = .unopened) :
    mapNext State.eraseUnspecified (exec .init (s.withUnspecified a7 v b rs)) =
      mapNext State.eraseUnspecified (exec .init s) := by
  match hopen : s.openAnswers, hconfig : s.configAnswers with
  | [], _ =>
    exact mapNext_eraseUnspecified_eq (exec_init_opening (s := s.withUnspecified a7 v b rs) hs hfsm hopen)
      (exec_init_opening hs hfsm hopen) rfl
  | .err e :: os, _ =>
    exact mapNext_eraseUnspecified_eq (initStopsWhenOpenFails (s.withUnspecified a7 v b rs) e os hs hfsm hopen)
      (initStopsWhenOpenFails s e os hs hfsm hopen) rfl
  | .ok h :: os, [] =>
    exact mapNext_eraseUnspecified_eq (exec_init_addressed (s := s.withUnspecified a7 v b rs) hs hfsm hopen hconfig)
      (exec_init_addressed hs hfsm hopen hconfig) rfl
  | .ok h :: os, .err e :: cs =>
    have hstops (u : State) := initStopsWhenAddressingFails u h e os cs
    exact mapNext_eraseUnspecified_eq (hstops (s.withUnspecified a7 v b rs) hs hfsm hopen hconfig)
      (hstops s hs hfsm hopen hconfig) rfl
  | .ok h :: os, .ok :: cs =>
    obtain ⟨as, rest, hanswers, hlength⟩ | ⟨f, hentry⟩ := answers_cases s.romInit s.writeAnswers
    · have hwrites (u : State) := initWritesTheWholeProgram u h os cs as rest
      exact mapNext_eraseUnspecified_eq
        (hwrites (s.withUnspecified a7 v b rs) hs hfsm hopen hconfig hanswers hlength)
        (hwrites s hs hfsm hopen hconfig hanswers hlength) rfl
    · exact mapNext_eraseUnspecified_eq
        (exec_init_waiting (s := s.withUnspecified a7 v b rs) hs hfsm hopen hconfig hentry)
        (exec_init_waiting hs hfsm hopen hconfig hentry) rfl

/-- A command whose first state is a response to it, whatever the registers hold. -/
theorem exec_responded_withUnspecified {i : Instr} {arg : Byte} {st : Status} (hi : i.port = .command) (hs : s.Idle)
    (hstart : ∀ u : State, u.fsm = s.fsm → u.handle = s.handle → commandStart i u = (u.accept arg).respond st none) :
    mapNext State.eraseUnspecified (exec i (s.withUnspecified a7 v b rs)) =
      mapNext State.eraseUnspecified (exec i s) :=
  mapNext_eraseUnspecified_eq (exec_of_responded (s := s.withUnspecified a7 v b rs) hi hs (hstart _ rfl rfl))
    (exec_of_responded hi hs (hstart s rfl rfl)) rfl

/-- A command outside Ready. -/
theorem exec_withUnspecified {i : Instr} (hi : i.port = .command) (hs : s.Idle) (hready : s.fsm ≠ .ready) :
    mapNext State.eraseUnspecified (exec i (s.withUnspecified a7 v b rs)) =
      mapNext State.eraseUnspecified (exec i s) := by
  cases i with
  | init =>
    by_cases hfsm : s.fsm = .unopened
    · exact exec_init_withUnspecified s a7 v b rs hs hfsm
    · exact exec_responded_withUnspecified s a7 v b rs hi hs fun u hu _ => if_neg (hu ▸ hfsm)
  | sendi c | sendd c | bl on =>
    exact exec_responded_withUnspecified s a7 v b rs hi hs fun u hu _ => if_neg (hu ▸ hready)
  | shut =>
    cases hhandle : s.handle with
    | none =>
      exact exec_responded_withUnspecified s a7 v b rs hi hs fun u _ hu => commandStart_shut_none (hu.trans hhandle)
    | some h =>
      exact mapNext_eraseUnspecified_eq (shutReleasesTheHandle (s.withUnspecified a7 v b rs) h hs hhandle)
        (shutReleasesTheHandle s h hs hhandle) rfl
  | wrIr p | wrDr p => cases hi

end Unspecified

/-- Settles O60: a wait, an illegal word's answer, or a command outside Ready. -/
theorem unspecifiedRegistersAreNeverRead : Obligations.UnspecifiedRegistersAreNeverRead := by
  intro s a7 v b rs hs hready
  have hu : (s.withUnspecified a7 v b rs).Idle := hs
  obtain hhost | ⟨w, rest, hhost⟩ : s.host = [] ∨ ∃ w rest, s.host = w :: rest := by cases s.host <;> simp
  · exact mapNext_eraseUnspecified_eq (step_of_no_word hu hhost) (step_of_no_word hs hhost) rfl
  cases hdecode : decodeCommand w with
  | error e =>
    exact mapNext_eraseUnspecified_eq (step_of_illegal hu hhost hdecode) (step_of_illegal hs hhost hdecode) rfl
  | ok i =>
    have hrun (x : State) := stepRunsThePresentedCommand x w rest i
    calc mapNext State.eraseUnspecified (step (s.withUnspecified a7 v b rs))
      _ = mapNext State.eraseUnspecified (exec i (State.withUnspecified { s with host := rest } a7 v b rs)) :=
        congrArg _ (hrun _ hu hhost hdecode)
      _ = mapNext State.eraseUnspecified (exec i { s with host := rest }) :=
        exec_withUnspecified _ a7 v b rs (decodeCommand_ok hdecode) hs hready
      _ = mapNext State.eraseUnspecified (step s) := congrArg _ (hrun s hs hhost hdecode).symm

end Sys2Proof.Machine
end

section
/-! SUPPORT. The two granularities of a command (41_sequencer.md R113): answers that come late change nothing but the number
of steps. -/

namespace Sys2Proof.Machine

open Host (Outcome)

/-- The state with further answers of PLATFORM. -/
def State.supply (os : List OpenAnswer) (cs : List ConfigAnswer) (as : List WriteAnswer) (s : State) : State :=
  { s with
    openAnswers := s.openAnswers ++ os
    configAnswers := s.configAnswers ++ cs
    writeAnswers := s.writeAnswers ++ as }

section Supply

variable (os : List OpenAnswer) (cs : List ConfigAnswer) (as : List WriteAnswer)

/-! ### A micro-step that has its answer -/

theorem supply_endProgram (s : State) : s.endProgram.supply os cs as = (s.supply os cs as).endProgram := by
  have hsrc : (s.supply os cs as).src = s.src := rfl
  unfold State.endProgram
  rw [hsrc]
  cases s.src <;> rfl

theorem supply_continueCommand (s : State) :
    s.continueCommand.supply os cs as = (s.supply os cs as).continueCommand :=
  continueCommand_commutes (e := State.supply os cs as) (fun _ => rfl) (fun _ => rfl) (fun _ => rfl) (fun _ => rfl)
    (fun _ => rfl) (supply_endProgram os cs as) s

variable {s : State}

theorem supply_awaitOpen (path : Path) (hanswers : s.openAnswers ≠ []) :
    (s.awaitOpen path).supply os cs as = (s.supply os cs as).awaitOpen path := by
  have hmore (a : OpenAnswer) (rest : List OpenAnswer) (h : s.openAnswers = a :: rest) :
      (s.supply os cs as).openAnswers = a :: (rest ++ os) := congrArg (· ++ os) h
  match h : s.openAnswers with
  | [] => exact absurd h hanswers
  | .ok hd :: rest => rw [awaitOpen_ok path h, awaitOpen_ok path (hmore _ _ h)]; rfl
  | .err e :: rest => rw [awaitOpen_err path h, awaitOpen_err path (hmore _ _ h)]; rfl

theorem supply_awaitConfig (hd : Handle) (a7 : Addr7) (hanswers : s.configAnswers ≠ []) :
    (s.awaitConfig hd a7).supply os cs as = (s.supply os cs as).awaitConfig hd a7 := by
  have hmore (a : ConfigAnswer) (rest : List ConfigAnswer) (h : s.configAnswers = a :: rest) :
      (s.supply os cs as).configAnswers = a :: (rest ++ cs) := congrArg (· ++ cs) h
  match h : s.configAnswers with
  | [] => exact absurd h hanswers
  | .ok :: rest =>
    have hlength : programLength (s.supply os cs as) = programLength s := rfl
    have hconfigured : configured hd a7 (rest ++ cs) (s.supply os cs as) =
        (configured hd a7 rest s).supply os cs as := rfl
    rw [awaitConfig_ok hd a7 h, awaitConfig_ok hd a7 (hmore _ _ h), hlength, hconfigured, ← supply_endProgram]
    split <;> rfl
  | .err e :: rest => rw [awaitConfig_err hd a7 h, awaitConfig_err hd a7 (hmore _ _ h)]; rfl

theorem supply_awaitWrite (hd : Handle) (a7 : Addr7) (c p : Byte) (hanswers : s.writeAnswers ≠ []) :
    (s.awaitWrite hd a7 c p).supply os cs as = (s.supply os cs as).awaitWrite hd a7 c p := by
  match h : s.writeAnswers with
  | [] => exact absurd h hanswers
  | a :: rest =>
    have hmore : (s.supply os cs as).writeAnswers = a :: (rest ++ as) := congrArg (· ++ as) h
    simp only [State.awaitWrite, h, hmore, completeWrite_eq]
    rfl

/-! ### A micro-step without one -/

theorem busyStep_write_in_flight {hd : Handle} {a7 : Addr7} {c p : Byte} (hpending : s.pending = some (.write hd a7 c p)) :
    busyStep s = .next (s.awaitWrite hd a7 c p).continueCommand := by simp only [busyStep, hpending]

/-- With further answers a micro-step does the same, or, where it would wait for its write, what the late answer does. -/
theorem busyStep_supply {u : State} (hrest : ¬ s.AtRest) (h : busyStep s = .next u) :
    busyStep (s.supply os cs as) = .next (u.supply os cs as) ∨
    (u.blocked = true ∧ busyStep (s.supply os cs as) = busyStep (u.supply os cs as)) := by
  have hanswered : s.blocked ≠ true := fun hblocked => hrest (.inr hblocked)
  have hpendingSame : (s.supply os cs as).pending = s.pending := rfl
  obtain ⟨path, hp, rfl⟩ | ⟨hd, a7, hp, rfl⟩ | ⟨hd, a7, c, p, hp, rfl⟩ | ⟨hp, hframe, rfl⟩ |
    ⟨hd, f, hp, hframe, hhandle, hfsm, rfl⟩ := busyStep_cases h
  · have hopen : s.openAnswers ≠ [] := by simpa [State.blocked, hp] using hanswered
    rw [supply_awaitOpen os cs as path hopen]
    exact .inl (by simp only [busyStep, hpendingSame, hp])
  · have hconfig : s.configAnswers ≠ [] := by simpa [State.blocked, hp] using hanswered
    rw [supply_awaitConfig os cs as hd a7 hconfig]
    exact .inl (by simp only [busyStep, hpendingSame, hp])
  · have hwrite : s.writeAnswers ≠ [] := by simpa [State.blocked, hp] using hanswered
    rw [supply_continueCommand, supply_awaitWrite os cs as hd a7 c p hwrite]
    exact .inl (busyStep_write_in_flight (s := s.supply os cs as) hp)
  · rw [supply_endProgram]
    have hframeSame : selectFrame (s.supply os cs as) = selectFrame s := rfl
    exact .inl (by simp only [busyStep, hpendingSame, hp, hframeSame, hframe])
  · have hissued : busyStep (s.supply os cs as) =
        .next (((s.issued hd f).supply os cs as).awaitWrite hd s.addr7 f.control f.payload).continueCommand := by
      rw [busyStep_frame (s := s.supply os cs as) hp hframe, frameStep_eq,
        transmit_eq (s := s.supply os cs as) hp hhandle hfsm]
      rfl
    by_cases hwrite : s.writeAnswers = []
    · have hwaits : (s.issued hd f).awaitWrite hd s.addr7 f.control f.payload = s.issued hd f :=
        awaitWrite_nil hd s.addr7 f.control f.payload hwrite
      refine .inr ?_
      rw [← State.issued, hwaits, continueCommand_of_pending (s := s.issued hd f) rfl, hissued]
      exact ⟨List.isEmpty_iff.mpr hwrite, (busyStep_write_in_flight (s := (s.issued hd f).supply os cs as) rfl).symm⟩
    · rw [hissued, supply_continueCommand, ← State.issued,
        supply_awaitWrite os cs as (s := s.issued hd f) hd s.addr7 f.control f.payload hwrite]
      exact .inl rfl

/-! ### Runs -/

theorem runToRest_eq_run {t : State} : ∀ (n : Nat) (s : State), runToRest n s = .next t →
    ∃ k, Host.Core.run Sys2Proof.core k s = .next t
  | 0, _, h => ⟨0, h⟩
  | n + 1, s, h => by
    by_cases hrest : s.AtRest
    · rw [runToRest_of_rest hrest] at h
      exact ⟨0, h⟩
    · rw [runToRest_succ hrest] at h
      obtain ⟨u, hu, hrun⟩ := bindNext_eq_next.mp h
      obtain ⟨k, hk⟩ := runToRest_eq_run n u hrun
      exact ⟨k + 1, (run_succ k ((step_of_running fun hidle => hrest (.inl hidle)).trans hu)).trans hk⟩

theorem not_atRest_supply (hrest : ¬ s.AtRest) : ¬ (s.supply os cs as).AtRest := by
  rintro (hidle | hblocked)
  · exact hrest (.inl hidle)
  · refine hrest (.inr ?_)
    match hp : s.pending with
    | none => simp [State.blocked, State.supply, hp] at hblocked
    | some r => cases r <;> simp_all [State.blocked, State.supply]

theorem not_idle_of_blocked {s : State} (h : s.blocked = true) : ¬ s.Idle := by
  rintro ⟨_, hpending⟩
  simp [State.blocked, hpending] at h

/-- A run against all the answers is the run against the first of them, and then steps with the others. -/
theorem runToRest_supply {t u : State} : ∀ (n : Nat) (s : State), runToRest n s = .next u →
    runToRest n (s.supply os cs as) = .next t → ∃ k, Host.Core.run Sys2Proof.core k (u.supply os cs as) = .next t
  | 0, s, hu, ht => by
    rw [runToRest, next_inj] at hu
    exact ⟨0, hu ▸ ht⟩
  | n + 1, s, hu, ht => by
    by_cases hrest : s.AtRest
    · rw [runToRest_of_rest hrest, next_inj] at hu
      exact runToRest_eq_run (n + 1) _ (hu ▸ ht)
    · rw [runToRest_succ hrest] at hu
      rw [runToRest_succ (not_atRest_supply os cs as hrest)] at ht
      obtain ⟨v, hv, hu⟩ := bindNext_eq_next.mp hu
      obtain ⟨x, hx, ht⟩ := bindNext_eq_next.mp ht
      obtain hsame | ⟨hblocked, hlate⟩ := busyStep_supply os cs as hrest hv
      · rw [hsame, next_inj] at hx
        exact runToRest_supply n v hu (hx ▸ ht)
      · rw [runToRest_of_rest (.inr hblocked), next_inj] at hu
        subst hu
        obtain ⟨k, hk⟩ := runToRest_eq_run n x ht
        have hbusy : ¬ v.Idle := not_idle_of_blocked hblocked
        exact ⟨k + 1, (run_succ k ((step_of_running (s := v.supply os cs as) hbusy).trans (hlate.symm.trans hx))).trans hk⟩

theorem supply_commandStart (i : Instr) (s : State) :
    (commandStart i s).supply os cs as = commandStart i (s.supply os cs as) := by
  have hfsm : (s.supply os cs as).fsm = s.fsm := rfl
  have hhandle : (s.supply os cs as).handle = s.handle := rfl
  cases i with
  | init | sendi b | sendd b | bl on => simp only [commandStart, hfsm]; split <;> rfl
  | shut =>
    simp only [commandStart, hhandle]
    split
    · rfl
    · simp only [release_eq]; rfl
  | wrIr p | wrDr p => rfl

end Supply

/-- Settles O46: an illegal word is answered at once, a command is the run from its first state. -/
theorem oneStepEqualsMicroSteps : Obligations.OneStepEqualsMicroSteps := by
  intro s t u w os cs as hs hhost hu ht
  have hsupplied : (s.supply os cs as).Idle := hs
  cases hdecode : decodeCommand w with
  | error e =>
    rw [step_of_illegal hs hhost hdecode, next_inj] at hu
    subst hu
    exact ⟨0, (step_of_illegal hsupplied hhost hdecode).symm.trans ht⟩
  | ok i =>
    have hi := decodeCommand_ok hdecode
    rw [stepRunsThePresentedCommand s w [] i hs hhost hdecode, exec_of_idle (s := { s with host := [] }) hi hs] at hu
    have ht := (stepRunsThePresentedCommand (s.supply os cs as) w [] i hsupplied hhost hdecode).symm.trans ht
    rw [exec_of_idle (s := { s.supply os cs as with host := [] }) hi hsupplied] at ht
    refine runToRest_supply os cs as (commandFuel i { s with host := [] }) (commandStart i { s with host := [] }) hu ?_
    rw [supply_commandStart]
    exact ht

end Sys2Proof.Machine
end
